-- ==== Sys2Proof/Word.lean ====
section
/-! DEFINITION. The words of PSDACC (00_scope.md rules R11, R12; 20_memory.md rules R60, R65). -/

namespace Sys2Proof

/-- A word of the host port, and a binary32 pattern (R11, R14): 32 bits, bit 0 the least significant. -/
abbrev Word := BitVec 32

/-- A sample: 16 bits, two's complement (R11, R136). -/
abbrev Sample := BitVec 16

/-- A byte address of the host port space: 19 bits, relative to the block's base (R60). -/
abbrev PortAddr := BitVec 19

end Sys2Proof
end

