-- ==== Sys2Proof/Syntax.lean ====
section
/-! DEFINITION. The four commands of PSDACC (00_scope.md rule R2; 30_encoding.md rules R90 to R96). -/

namespace Sys2Proof

/-- One constructor for each row of the opcode map (30_encoding.md rule R92). -/
inductive Instr where
  /-- CONFIGURE count: format C, `count = w[15:0]`, the new sampleCount (R93, R98). The second operand is ARG_FS. -/
  | configure (count : BitVec 16)
  /-- ACCUMULATE: format Z (R94). The samples are SAMP[0 .. NSAMP-1]. -/
  | accumulate
  /-- GETRESULT: format Z (R95). -/
  | getResult
  /-- CLEAR: format Z (R96). -/
  | clear
deriving DecidableEq, Repr

end Sys2Proof
end

