-- ==== Sys2Proof/WellFormed.lean ====
section
/-! DEFINITION. Well-formed commands and legal command words (30_encoding.md rules R90 to R93, R99). -/

namespace Sys2Proof

/-- Every instruction of the type is one the encoding admits: `count` is any unsigned 16-bit integer (R93: "All
65536 words ... decode to CONFIGURE"), bounded by its type, and the other three have no operand. The checks with
content are those on command words, below. -/
def Instr.wellFormed : Instr → Bool
  | .configure _ => true
  | .accumulate => true
  | .getResult => true
  | .clear => true

/-- First check of R99: `op = w[31:24]` is one of 0x01 to 0x04. -/
def opLegal (w : Word) : Bool :=
  1 ≤ (w.extractLsb' 24 8).toNat && (w.extractLsb' 24 8).toNat ≤ 4

/-- Second check of R99: the must-be-zero bits are zero, `w[23:16]` for CONFIGURE and `w[23:0]` for the others. -/
def rsvzLegal (w : Word) : Bool :=
  if w.extractLsb' 24 8 = 0x01 then w.extractLsb' 16 8 == 0 else w.extractLsb' 0 24 == 0

/-- A command word is illegal when its `op` is none of the four, or when an `rsvz` bit is 1 (R99). -/
def legalWord (w : Word) : Bool := opLegal w && rsvzLegal w

end Sys2Proof
end

