-- ==== Sys2Proof/Decode.lean ====
section
/-! DEFINITION. Decode and encode of command words (30_encoding.md rules R90 to R99). -/

namespace Sys2Proof

/-- Why a word is no command (R99). Both raise contract fault 1. -/
inductive DecodeError where
  /-- `op` is not one of 0x01 to 0x04. -/
  | unknownOp (op : BitVec 8)
  /-- `op` is legal and a must-be-zero bit is 1. -/
  | reservedBits (op : BitVec 8)
deriving DecidableEq, Repr

/-- `op = w[31:24]` (R90). -/
def opField (w : Word) : BitVec 8 := w.extractLsb' 24 8

/-- `count = w[15:0]`, zero-extended where it is used, not scaled, not shifted (R98). -/
def countField (w : Word) : BitVec 16 := w.extractLsb' 0 16

/-- Format C's must-be-zero bits `w[23:16]` (R90). -/
def rsvzC (w : Word) : BitVec 8 := w.extractLsb' 16 8

/-- Format Z's must-be-zero bits `w[23:0]` (R90). -/
def rsvzZ (w : Word) : BitVec 24 := w.extractLsb' 0 24

/-- The decode of `Command(w)` (R97): total, and its order is the spec's. -/
def decode (w : Word) : Except DecodeError Instr :=
  if opField w = 0x01 then
    if rsvzC w = 0 then .ok (.configure (countField w)) else .error (.reservedBits (opField w))
  else if opField w = 0x02 then
    if rsvzZ w = 0 then .ok .accumulate else .error (.reservedBits (opField w))
  else if opField w = 0x03 then
    if rsvzZ w = 0 then .ok .getResult else .error (.reservedBits (opField w))
  else if opField w = 0x04 then
    if rsvzZ w = 0 then .ok .clear else .error (.reservedBits (opField w))
  else .error (.unknownOp (opField w))

/-- The command word of an instruction: format C is `op ++ rsvz ++ count`, format Z is `op ++ rsvz` (R90, R93 to
R96). -/
def encode : Instr → Word
  | .configure count => 0x01#8 ++ 0x00#8 ++ count
  | .accumulate => 0x02#8 ++ 0x000000#24
  | .getResult => 0x03#8 ++ 0x000000#24
  | .clear => 0x04#8 ++ 0x000000#24

/-- One row of the opcode map (R92). -/
structure OpcodeRow where
  mnemonic : String
  matchBits : Word
  maskBits : Word
deriving DecidableEq, Repr

/-- The complete opcode map (R92): "exactly four legal values of op". -/
def opcodeMap : List OpcodeRow :=
  [ ⟨"CONFIGURE", 0x01000000, 0xFFFF0000⟩,
    ⟨"ACCUMULATE", 0x02000000, 0xFFFFFFFF⟩,
    ⟨"GETRESULT", 0x03000000, 0xFFFFFFFF⟩,
    ⟨"CLEAR", 0x04000000, 0xFFFFFFFF⟩ ]

/-- The row of the opcode map an instruction belongs to (R92). -/
def Instr.mnemonic : Instr → String
  | .configure _ => "CONFIGURE"
  | .accumulate => "ACCUMULATE"
  | .getResult => "GETRESULT"
  | .clear => "CLEAR"

/-- What the decoder reads from an instruction whose bits are `w`, numbered as spec/opcode_table.json numbers them.
Every command is one 32-bit word (R90), bits above `nbits` zero; a number that does not fit `nbits` bits, or more
than 32 bits, is no command word. -/
def decodeTableWord (nbits w : Nat) : Option Instr :=
  if nbits ≤ 32 ∧ w < 2 ^ nbits then
    match decode (BitVec.ofNat 32 w) with
    | .ok i => some i
    | .error _ => none
  else none

end Sys2Proof
end

