-- ==== Sys2Proof/Config.lean ====
section
/-! DEFINITION. What an instance of PSDACC fixes (00_scope.md rules R7, R9, R10), and the values the spec leaves
open (93_implementation_defined.md U1, U4, U6, U9, U16), each an uninterpreted constant: no claim can see its value. -/

namespace Sys2Proof

/-- Which transform backend is attached to the backend port. `external` is the real one, of which the model
assumes nothing (45_backend_port.md rule R198); the other three are the exact test backends of rule R207. -/
inductive Backend where
  /-- The platform's backend: the uninterpreted functions `Config.beWindow`, `Config.beFftRe`, `Config.beFftIm`,
  `Config.beMag`. -/
  | external
  /-- BE_abs: magnitude i is the absolute value of input i (R207). -/
  | abs
  /-- BE_const_m: every magnitude is m (R207). -/
  | const (m : Word)
  /-- BE_tab: magnitude i is entry i of a stated table (R207). -/
  | table (ms : List Word)
deriving DecidableEq, Repr

/-- Which numerics record the instance computes with (00_scope.md rules R8, R14, R19; 92_eei_decisions.md D2). -/
inductive Arithmetic where
  /-- Binary32 with round to nearest, ties to even: the format this spec fixes (R8). -/
  | binary32
  /-- "Another format ... substituted" (R8): a record of which the model assumes nothing, the uninterpreted functions
  `Config.otherFmul`, `Config.otherFdiv`, `Config.otherFadd`, `Config.otherCvtU32`, `Config.otherCvtI` (log 17). -/
  | other
deriving DecidableEq, Repr

/-- The parameters of one instance of the block, constant over a run (10_state.md rule R49). -/
structure Params where
  /-- MAXN, the capacity of BIN, RE, IM and SAMP (R7). -/
  maxn : BitVec 16
  /-- BE_MAXN, the backend's maximum supported size (R10, R203). -/
  beMaxn : Nat
  /-- CORR2, the pre-squared window correction, a binary32 pattern (R9). -/
  corr2 : Word
  /-- The attached backend (R10). -/
  backend : Backend
  /-- The numerics record of rule R14 (R8, R19, U16). -/
  arithmetic : Arithmetic
deriving DecidableEq, Repr

/-- The constraints of the open parameters (92_eei_decisions.md, "Open parameters, collected"): `1 <= MAXN`
(`MAXN <= 65535` by its width), `BE_MAXN >= MAXN`, CORR2 finite and positive (its pattern lies strictly between
that of +0 and that of +infinity). -/
abbrev Params.Legal (p : Params) : Prop :=
  p.maxn ≠ 0 ∧ p.maxn.toNat ≤ p.beMaxn ∧ p.corr2 ≠ 0 ∧ p.corr2.toNat < 0x7F800000

/-- The instance that `State.reset` describes. CORR2 and the numerics record are the spec's defaults
(R8, R9).
DESIGN CHOICE: MAXN is OPEN in the spec (D3); 1024, the value its test vectors V11, V12 and V49c use, is taken
here so that a program can be run from reset. Unsafe for a claim about `State.reset`; no claim over all states
depends on it (log 2). -/
def Params.default : Params :=
  { maxn := 1024, beMaxn := 1024, corr2 := 0x4021CC64, backend := .external, arithmetic := .binary32 }

namespace Config

/-- The WINDOW request of the external backend on a real buffer of length `n`: entry `k` of the windowed buffer
(45_backend_port.md rule R199). No window formula is in the source (N7). -/
opaque beWindow (n : Nat) (re : List Word) (k : Nat) : Word

/-- The FFT request of the external backend: real part of entry `k` (R200). -/
opaque beFftRe (n : Nat) (re im : List Word) (k : Nat) : Word

/-- The FFT request of the external backend: imaginary part of entry `k` (R200). -/
opaque beFftIm (n : Nat) (re im : List Word) (k : Nat) : Word

/-- The MAG request of the external backend: magnitude of entry `k` (R201). -/
opaque beMag (n : Nat) (re im : List Word) (k : Nat) : Word

/-- `fmul` of the record `Arithmetic.other` (U16): a function of the operands, and of a free word `draw` for what its
format leaves open (U4). -/
opaque otherFmul (draw a b : Word) : Word

/-- `fdiv` of the record `Arithmetic.other` (U16). -/
opaque otherFdiv (draw a b : Word) : Word

/-- `fadd` of the record `Arithmetic.other` (U16). -/
opaque otherFadd (draw a b : Word) : Word

/-- `cvt_u32` of the record `Arithmetic.other` (U16). -/
opaque otherCvtU32 (n : Nat) : Word

/-- `cvt_i` of the record `Arithmetic.other` (U16). -/
opaque otherCvtI (d : Int) : Word

/-- U6: entry `k` of IM after the MAG request of draw number `d` ("any value", 45_backend_port.md rule R202). -/
opaque imDraw (d k : Nat) : Word

/-- U4: the bits from which the NaN pattern of one floating-point operation is made: draw number `d`, bin `i`,
operation `op` within the command. -/
opaque nanDraw (d i op : Nat) : Word

/-- U1: BIN[i] after the reset of draw number `d`. -/
opaque resetBin (d i : Nat) : Word

/-- U1: RE[i] after the reset of draw number `d`. -/
opaque resetRe (d i : Nat) : Word

/-- U1: IM[i] after the reset of draw number `d`. -/
opaque resetIm (d i : Nat) : Word

/-- U1: SAMP[i] after the reset of draw number `d`. -/
opaque resetSamp (d i : Nat) : Sample

/-- U9: which answer a write cut off by the reset of draw number `d` gets: 0 none, 1 OK, 2 ERR. -/
opaque cutAnswer (d : Nat) : Fin 3

end Config

end Sys2Proof
end

