-- ==== Sys2Proof/Machine/Float32.lean ====
section
/-! DEFINITION. Binary32 arithmetic with round to nearest, ties to even, gradual underflow, no traps and no flags
(00_scope.md rules R8, R14; 60_exceptions.md rule R224), and the numerics record the commands are written against.

A finite pattern stands for (-1)^sign × scaled / 2^149, with `scaled` a natural number: 2^-149 is the smallest
subnormal, so every finite binary32 number is an integer multiple of it. Every operation computes the exact real
result as a quotient of two naturals and rounds once. -/

namespace Sys2Proof.Machine

/-- The sign `p[31]` (R14). -/
def signBit (p : Word) : Bool := p.getLsbD 31

/-- The biased exponent `p[30:23]` (R14). -/
def expField (p : Word) : Nat := (p.extractLsb' 23 8).toNat

/-- The fraction `p[22:0]` (R14). -/
def fracField (p : Word) : Nat := (p.extractLsb' 0 23).toNat

/-- Exponent 255, fraction not 0 (R14). -/
def isNaN (p : Word) : Bool := expField p == 255 && fracField p != 0

/-- Exponent 255, fraction 0 (R14). -/
def isInf (p : Word) : Bool := expField p == 255 && fracField p == 0

/-- Exponent 0, fraction 0: +0 or -0 (R14). -/
def isZero (p : Word) : Bool := expField p == 0 && fracField p == 0

/-- Exponent below 255: zero, subnormal or normal. -/
def isFinite (p : Word) : Bool := expField p != 255

/-- The magnitude of a finite pattern in units of 2^-149 (R14): the fraction for exponent 0, and
`(2^23 + fraction) × 2^(exponent - 1)` for exponents 1 to 254. -/
def scaled (p : Word) : Nat :=
  if expField p = 0 then fracField p else (2 ^ 23 + fracField p) * 2 ^ (expField p - 1)

/-- The signed value of a finite pattern in units of 2^-149. -/
def scaledInt (p : Word) : Int := if signBit p then -(scaled p : Int) else scaled p

/-- The pattern of +infinity without its sign. -/
def infMag : Nat := 0x7F800000

/-- A pattern from its sign and its lower 31 bits. -/
def pack (sign : Bool) (mag : Nat) : Word := BitVec.ofNat 32 ((if sign then 2 ^ 31 else 0) + mag)

/-- The integer nearest to `n / d` for `d > 0`, a tie going to the even one. -/
def nearestEven (n d : Nat) : Nat :=
  if 2 * (n % d) < d ∨ (2 * (n % d) = d ∧ (n / d) % 2 = 0) then n / d else n / d + 1

/-- How far above 2^-149 the spacing of binary32 numbers lies around `n / d` (in units of 2^-149): the spacing is
2^0 up to 2^24 and doubles with every further power of two. -/
def quantum (n d : Nat) : Nat := Nat.log2 (n / d) - 23

/-- The lower 31 bits of `rnd32` of the non-negative real `num / den` (R14): the nearest multiple of the spacing, ties
to the even fraction, +infinity from 2^128 - 2^103 on. A quotient rounded up to the next power of two carries into
the exponent field by itself. -/
def roundMag (num den : Nat) : Nat :=
  let n := num * 2 ^ 149
  let q := quantum n den
  min (q * 2 ^ 23 + nearestEven n (den * 2 ^ q)) infMag

/-- `rnd32` of `(-1)^sign × num / den`, with the sign kept on a zero result (R14). -/
def rnd32 (sign : Bool) (num den : Nat) : Word := pack sign (roundMag num den)

/-- A NaN pattern made of drawn bits: any sign, exponent 255, any fraction but 0 (U4). Every NaN pattern is made of
some bits, and only NaN patterns are made. -/
def nanPattern (bits : Word) : Word :=
  let f := bits.extractLsb' 0 23
  (bits.extractLsb' 31 1 : BitVec 1) ++ (0xFF#8 : BitVec 8) ++ (if f = 0 then 1#23 else f : BitVec 23)

/-- The NaN pattern operation number `op` on bin `i` returns, in the command of draw number `d` (R14, U4). -/
def drawnNaN (d i op : Nat) : Word := nanPattern (Config.nanDraw d i op)

/-- The five primitives of rule R14 as one record, so that another format can be substituted (R8). The first argument
of the first three is the pattern the operation returns if its result is a NaN. -/
structure Numerics where
  fmul : Word → Word → Word → Word
  fdiv : Word → Word → Word → Word
  fadd : Word → Word → Word → Word
  cvtU32 : Nat → Word
  cvtI : Int → Word

/-- `fmul(a, b) = rnd32(a × b)`, sign the XOR of the signs, also of a zero; zero times infinity is a NaN (R14). -/
def f32Mul (nan a b : Word) : Word :=
  let s := signBit a ^^ signBit b
  if isNaN a || isNaN b then nan
  else if isInf a || isInf b then
    if isZero a || isZero b then nan else pack s infMag
  else rnd32 s (scaled a * scaled b) (2 ^ 149 * 2 ^ 149)

/-- `fdiv(a, b) = rnd32(a / b)`, sign the XOR of the signs; 0/0 and inf/inf are NaN, nonzero/0 is infinity (R14). The
quotients by infinity, which R14 does not list and no command computes, are IEEE 754's (log 11). -/
def f32Div (nan a b : Word) : Word :=
  let s := signBit a ^^ signBit b
  if isNaN a || isNaN b then nan
  else if isInf a then
    if isInf b then nan else pack s infMag
  else if isInf b then pack s 0
  else if isZero b then
    if isZero a then nan else pack s infMag
  else rnd32 s (scaled a) (scaled b)

/-- `fadd(a, b) = rnd32(a + b)`; infinities of opposite signs give a NaN; an exact zero sum is +0 (R14: "rnd32(0) is +0
unless stated"; log 10). -/
def f32Add (nan a b : Word) : Word :=
  let z := scaledInt a + scaledInt b
  if isNaN a || isNaN b then nan
  else if isInf a then
    if isInf b && (signBit a != signBit b) then nan else a
  else if isInf b then b
  else rnd32 (decide (z < 0)) z.natAbs (2 ^ 149)

/-- `cvt_u32(n) = rnd32(n)` (R14). -/
def f32OfNat (n : Nat) : Word := rnd32 false n 1

/-- `cvt_i(d)`: the binary32 value equal to `d`, exact for `|d| <= 65535`; `cvt_i(0) = +0` (R14). -/
def f32OfInt (d : Int) : Word := rnd32 (decide (d < 0)) d.natAbs 1

/-- The binary32 instance of the record, the spec's FMT (R8, D2). -/
def binary32 : Numerics :=
  { fmul := f32Mul, fdiv := f32Div, fadd := f32Add, cvtU32 := f32OfNat, cvtI := f32OfInt }

/-- The uninterpreted record of an instance with another format (R8, U16). -/
def otherNumerics : Numerics :=
  { fmul := Config.otherFmul, fdiv := Config.otherFdiv, fadd := Config.otherFadd
    cvtU32 := Config.otherCvtU32, cvtI := Config.otherCvtI }

/-- The numerics record an instance computes with: a parameter of the step function (R19). -/
def numerics : Arithmetic → Numerics
  | .binary32 => binary32
  | .other => otherNumerics

/-- The constant 2.0 (R14). It is no part of the record: every instance uses this pattern (log 17). -/
def two : Word := 0x40000000

/-- The constant +0.0 (R14). It is no part of the record: every instance uses this pattern (log 17). -/
def posZero : Word := 0x00000000

end Sys2Proof.Machine
end

