-- ==== Sys2Proof/Machine/State.lean ====
section
/-! DEFINITION. The state record of PSDACC (10_state.md rules R20 to R48), the host's transactions and their answers
(00_scope.md rule R19), and the state after reset (70_reset_and_hazards.md rule R245). -/

namespace Sys2Proof.Machine

/-- A bus access whose width is not 32 bits (20_memory.md rule R64: "8, 16, 64 bits, a burst"). -/
inductive OddWidth where
  | bits8
  | bits16
  | bits64
  | burst
deriving DecidableEq, Repr

/-- What the host, or the platform, can do at the block's inputs (00_scope.md rule R19). -/
inductive Txn where
  /-- `HostRead(addr)` (20_memory.md rule R62). -/
  | read (addr : PortAddr)
  /-- `HostWrite(addr, data)` (R63). -/
  | write (addr : PortAddr) (data : Word)
  /-- An access of another width, read or write: refused (R64, R66 case 1). -/
  | oddWidth (width : OddWidth) (isWrite : Bool) (addr : PortAddr)
  /-- The reset input, asserted between two transactions (70_reset_and_hazards.md rule R245). -/
  | reset
  /-- The reset input, asserted while this write is being processed: the write is abandoned (R246). -/
  | cutWrite (addr : PortAddr) (data : Word)
deriving DecidableEq, Repr

/-- The response to a transaction: `OK(data)` of a read, `OK` of a write, `ERR` (00_scope.md rule R19, 20_memory.md
rules R62, R63). -/
inductive Answer where
  | okData (data : Word)
  | ok
  | err
deriving DecidableEq, Repr

/-- The operation of a backend request (45_backend_port.md rule R196). -/
inductive BackendOp where
  | window
  | fft
  | mag
deriving DecidableEq, Repr

/-- One request at the backend port (R196): operation code, length, window type and direction. -/
structure BackendRequest where
  bop : BitVec 2
  len : BitVec 16
  wtype : BitVec 2
  dir : BitVec 1
deriving DecidableEq, Repr

/-- The state record. The fields `nsamp` to `finfo` are the spec's, "and no others" (R20); `cfg`, `pending`,
`answer`, `beRequests` and `draws` are the model's own (log 1, 2, 3, 8). -/
@[ext]
structure State where
  /-- The instance's parameters, constant over a run (R49). -/
  cfg : Params
  /-- NSAMP, the sampleCount; 0 means not configured (R39). -/
  nsamp : BitVec 16
  /-- FS, the sampleFrequency in hertz (R40). -/
  fs : Word
  /-- ARG_FS, the staged operand of CONFIGURE (R38). -/
  argFs : Word
  /-- SEGCNT, the segmentCount (R42). -/
  segcnt : Word
  /-- BIN[0 .. MAXN-1] (R21). -/
  bin : List Word
  /-- RE[0 .. MAXN-1] (R25). -/
  re : List Word
  /-- IM[0 .. MAXN-1] (R25). -/
  im : List Word
  /-- SAMP[0 .. MAXN-1] (R26). -/
  samp : List Sample
  /-- SPTR, the samples pushed so far (R26, R43). -/
  sptr : BitVec 17
  /-- FCODE, the contract-fault code; 0 means no fault (R46). -/
  fcode : BitVec 8
  /-- FINFO, the word that caused the fault (R45). -/
  finfo : Word
  /-- The host's transactions not yet issued, oldest first. -/
  pending : List Txn
  /-- The answer given to the transaction last processed. -/
  answer : Option Answer
  /-- The backend requests issued by the transaction last processed, in order. -/
  beRequests : List BackendRequest
  /-- The number of draws made so far: the key that makes each free value a fresh one. -/
  draws : Nat
deriving DecidableEq, Repr

/-- Why the machine stops with a fault. EMPTY: no behaviour of PSDACC stops it. Every transaction is answered
(70_reset_and_hazards.md rule R263); a contract fault is an architectural state (`fcode ≠ 0`) that the block goes on
answering reads in (60_exceptions.md rules R219, R222), so it is a next state; a bus error changes nothing (R66).
Nobody raises a value of this type: safe. -/
inductive Fault where
deriving DecidableEq, Repr

/-- Why the machine gives an instruction no meaning. -/
inductive Refusal where
  /-- The instruction has no meaning in the model yet: raised only by an arm of `exec`, safe. No arm raises it. -/
  | notModelled (mnemonic : String)
deriving DecidableEq, Repr

/-- The state after a reset whose draw number is `d`, of an instance `p` (R48, R245): every scalar 0, every entry of
BIN, RE, IM and SAMP "unspecified, stable", a fresh draw. -/
def State.afterReset (p : Params) (d : Nat) : State :=
  { cfg := p
    nsamp := 0
    fs := 0
    argFs := 0
    segcnt := 0
    bin := (List.range p.maxn.toNat).map (Config.resetBin d)
    re := (List.range p.maxn.toNat).map (Config.resetRe d)
    im := (List.range p.maxn.toNat).map (Config.resetIm d)
    samp := (List.range p.maxn.toNat).map (Config.resetSamp d)
    sptr := 0
    fcode := 0
    finfo := 0
    pending := []
    answer := none
    beRequests := []
    draws := d + 1 }

/-- The machine right after reset (R48), of the instance `Params.default`, with no transaction waiting. -/
def State.reset : State := State.afterReset Params.default 0

end Sys2Proof.Machine
end

