-- ==== Sys2Proof/Machine/Ops.lean ====
section
/-! DEFINITION. The operations the commands and transactions share: the register files, the answer to a transaction,
and contract-fault entry (10_state.md rules R13, R21 to R26; 60_exceptions.md rules R216, R219). -/

namespace Sys2Proof.Machine

/-- `for i in 0 .. n-1: X[i] <- f i X[i]` on a register file held as a list, `i` the index of the list's head (R13).
Entries at or above `n` keep what they hold. -/
def mapBelow {α : Type} (n : Nat) (f : Nat → α → α) (i : Nat) : List α → List α
  | [] => []
  | x :: xs => (if i < n then f i x else x) :: mapBelow n f (i + 1) xs

/-- `MAXN` (R7). -/
def State.maxn (s : State) : Nat := s.cfg.maxn.toNat

/-- The numerics record of the instance (00_scope.md rules R8, R19; constant over a run, 10_state.md rule R49). -/
def State.num (s : State) : Numerics := numerics s.cfg.arithmetic

/-- `BIN[i]` (R13). Every index a rule uses is below MAXN (20_memory.md rule R69); log 20 for the rest. -/
def readBin (s : State) (i : Nat) : Word := s.bin.getD i 0

/-- `RE[i]` (R13). -/
def readRe (s : State) (i : Nat) : Word := s.re.getD i 0

/-- `IM[i]` (R13). -/
def readIm (s : State) (i : Nat) : Word := s.im.getD i 0

/-- `SAMP[i]` (R13). -/
def readSamp (s : State) (i : Nat) : Sample := s.samp.getD i 0

/-- Answer the transaction with `OK`. -/
def answerOk (s : State) : State := { s with answer := some .ok }

/-- Answer the transaction with `ERR` and change nothing else: a bus error (20_memory.md rule R66). -/
def busError (s : State) : State := { s with answer := some .err }

/-- The causes of a contract fault (60_exceptions.md rule R216). -/
inductive FaultCause where
  | illegalCmd
  | cfgCount
  | cfgFreq
  | notConfigured
  | sampleUnderrun
  | segOverflow
  | sampleOverrun
deriving DecidableEq, Repr

/-- The code of a cause (R216). "Codes 8 to 255 are never produced." -/
def faultCode : FaultCause → BitVec 8
  | .illegalCmd => 1
  | .cfgCount => 2
  | .cfgFreq => 3
  | .notConfigured => 4
  | .sampleUnderrun => 5
  | .segOverflow => 6
  | .sampleOverrun => 7

/-- Contract-fault entry, `raise Fault(code, info)` (R219): FCODE and FINFO are written, the transaction is answered
`ERR`, "nothing else is written". Control goes nowhere, and there is no return from it (R220). -/
def raiseFault (c : FaultCause) (info : Word) (s : State) : State :=
  { s with fcode := faultCode c, finfo := info, answer := some .err }

/-- `for i in 0 .. NSAMP-1: BIN[i] <- +0.0` (43_clear.md rule R185, 41_accumulate.md rule R145). -/
def clearBins (n : Nat) (bins : List Word) : List Word := mapBelow n (fun _ _ => posZero) 0 bins

/-- The state before a transaction is processed: it leaves the list of those waiting, nothing is answered yet and no
backend request has been issued (20_memory.md rule R72). -/
def accept (rest : List Txn) (s : State) : State :=
  { s with pending := rest, answer := none, beRequests := [] }

/-- Reset (70_reset_and_hazards.md rule R245): the scalars become 0, every entry of the arrays is drawn afresh. The
instance, and what the host still means to do, are not the block's to change. A reset has no answer. -/
def resetBlock (s : State) : State :=
  { s with
    nsamp := 0, fs := 0, argFs := 0, segcnt := 0, sptr := 0, fcode := 0, finfo := 0
    bin := (List.range s.maxn).map (Config.resetBin s.draws)
    re := (List.range s.maxn).map (Config.resetRe s.draws)
    im := (List.range s.maxn).map (Config.resetIm s.draws)
    samp := (List.range s.maxn).map (Config.resetSamp s.draws)
    answer := none, beRequests := [], draws := s.draws + 1 }

/-- The answer to a write that a reset cuts off is unspecified: none, `OK` or `ERR` (R246, U9). -/
def cutAnswerOf (d : Nat) : Option Answer :=
  if Config.cutAnswer d = 0 then none else if Config.cutAnswer d = 1 then some .ok else some .err

/-- Reset in the middle of a write: the write is abandoned, "the state afterwards is the reset state" (R246). -/
def resetCutting (s : State) : State := { resetBlock s with answer := cutAnswerOf s.draws }

end Sys2Proof.Machine
end

