-- ==== Sys2Proof/Machine/Backend.lean ====
section
/-! DEFINITION. The backend port and what answers it (45_backend_port.md rules R195 to R204, R206, R207). -/

namespace Sys2Proof.Machine

/-- The code of an operation: 0 WINDOW, 1 FFT, 2 MAG (R196). -/
def bopCode : BackendOp → BitVec 2
  | .window => 0
  | .fft => 1
  | .mag => 2

/-- The request for an operation on `n` entries: window type 0 (Hamming) and direction 0 (forward), the only values the
block issues (R196; log 14). -/
def beRequest (op : BackendOp) (n : BitVec 16) : BackendRequest :=
  { bop := bopCode op, len := n, wtype := 0, dir := 0 }

/-- The operations of one ACCUMULATE, in order (R197). -/
def backendSequence : List BackendOp := [.window, .fft, .mag]

/-- The three requests of one ACCUMULATE (R197): "each after the previous one has completed". -/
def backendRequests (n : BitVec 16) : List BackendRequest := backendSequence.map fun op => beRequest op n

/-- The buffers the backend reads and writes: RE[0 .. N-1] and IM[0 .. N-1] (R196). -/
structure Buffers where
  re : List Word
  im : List Word
deriving DecidableEq, Repr

/-- `n` entries, entry `k` given by `f k`. -/
def tabulate (n : Nat) (f : Nat → Word) : List Word := (List.range n).map f

/-- `|x|`: the sign bit cleared (R207). -/
def clearSign (x : Word) : Word := x &&& 0x7FFFFFFF

/-- The magnitude a backend gives for entry `k`. -/
def magnitudeOf (b : Backend) (n : Nat) (buf : Buffers) (k : Nat) : Word :=
  match b with
  | .external => Config.beMag n buf.re buf.im k
  | .abs => clearSign (buf.re.getD k 0)
  | .const m => m
  | .table ms => ms.getD k 0

/-- How a backend answers one request on `n` entries, `d` the draw number. WINDOW "does not touch IM" (R199); FFT writes
both buffers (R200); after MAG, RE holds the magnitudes and IM is unspecified (R201, R202, U6). The test backends have
no window and no transform (R207). -/
def serve (b : Backend) (d n : Nat) (op : BackendOp) (buf : Buffers) : Buffers :=
  match op with
  | .window =>
    match b with
    | .external => { buf with re := tabulate n (Config.beWindow n buf.re) }
    | .abs => buf
    | .const _ => buf
    | .table _ => buf
  | .fft =>
    match b with
    | .external =>
      { re := tabulate n (Config.beFftRe n buf.re buf.im), im := tabulate n (Config.beFftIm n buf.re buf.im) }
    | .abs => buf
    | .const _ => buf
    | .table _ => buf
  | .mag => { re := tabulate n (magnitudeOf b n buf), im := tabulate n (Config.imDraw d) }

/-- The requests of one ACCUMULATE served one after the other (R197). Every request completes (R204). -/
def runBackend (b : Backend) (d n : Nat) (buf : Buffers) : Buffers :=
  backendSequence.foldl (fun acc op => serve b d n op acc) buf

/-- The backend function `BE(N, x)` (R198): the composition of the three requests with IM initially all +0. -/
def backendFunction (b : Backend) (n : Nat) (x : List Word) : List Word :=
  (runBackend b 0 n { re := x, im := List.replicate n posZero }).re

/-- A claim may assume BE-zero (R206): an all-(+0) input gives an all-(+0) output. -/
def BeZero (be : Nat → List Word → List Word) : Prop :=
  ∀ n, be n (List.replicate n posZero) = List.replicate n posZero

/-- A claim may assume BE-nonneg (R206): every output is +0, positive or +infinity when every input is finite. -/
def BeNonneg (be : Nat → List Word → List Word) : Prop :=
  ∀ n x, x.length = n → (∀ v ∈ x, isFinite v = true) → ∀ v ∈ be n x, signBit v = false ∧ isNaN v = false

/-- A claim may assume BE-even (R206): `BE(N, x)[i] = BE(N, x)[N - i]` for `1 <= i <= N - 1`. -/
def BeEven (be : Nat → List Word → List Word) : Prop :=
  ∀ n x i, x.length = n → 1 ≤ i → i < n → (be n x).getD i 0 = (be n x).getD (n - i) 0

/-- A claim may assume BE-homog (R206): scaling the input by a power of two scales the output by the same factor, "up to
overflow and underflow". DESIGN CHOICE (log 26): that is read as follows. The larger output is finite, and the smaller one
lies above the least normal number, 2^23 units of 2^-149: a smaller output may have been rounded on the subnormal grid,
and so may one that equals the least normal number. -/
def BeHomog (be : Nat → List Word → List Word) : Prop :=
  ∀ n x y k, x.length = n → y.length = n →
    (∀ i < n, isFinite (x.getD i 0) = true ∧ isFinite (y.getD i 0) = true ∧
      scaledInt (y.getD i 0) = scaledInt (x.getD i 0) * 2 ^ k) →
    ∀ i < n, isFinite ((be n x).getD i 0) = true → isFinite ((be n y).getD i 0) = true →
      2 ^ 23 < scaled ((be n x).getD i 0) →
      scaledInt ((be n y).getD i 0) = scaledInt ((be n x).getD i 0) * 2 ^ k

end Sys2Proof.Machine
end

