-- ==== Sys2Proof/Machine/Flags.lean ====
section
/-! DEFINITION. The status flags, the STATUS word, the phase and the fault output: all functions of the state
(10_state.md rules R28, R29, R37; 60_exceptions.md rule R223). -/

namespace Sys2Proof.Machine

/-- FAULT: 1 iff `FCODE != 0` (R29). -/
def flagFault (s : State) : Bool := s.fcode != 0

/-- CONFIGURED: 1 iff `NSAMP != 0` (R29). -/
def flagConfigured (s : State) : Bool := s.nsamp != 0

/-- PENDING: 1 iff `SEGCNT != 0` (R29). -/
def flagPending (s : State) : Bool := s.segcnt != 0

/-- `SPTR = NSAMP`, the test PUSH, ACCUMULATE and READY make (R29, 41_accumulate.md rules R137, R142). -/
def segmentFull (s : State) : Bool := s.sptr == s.nsamp.setWidth 17

/-- READY: 1 iff `NSAMP != 0` and `SPTR = NSAMP` (R29). -/
def flagReady (s : State) : Bool := s.nsamp != 0 && segmentFull s

/-- One flag at its bit of STATUS. -/
def flagAt (k : Nat) (b : Bool) : Word := (BitVec.ofBool b).setWidth 32 <<< k

/-- `STATUS = zext_32(FCODE) << 8 | READY << 3 | PENDING << 2 | CONFIGURED << 1 | FAULT` (R37). -/
def statusWord (s : State) : Word :=
  (s.fcode.setWidth 32 <<< 8) ||| flagAt 3 (flagReady s) ||| flagAt 2 (flagPending s)
    ||| flagAt 1 (flagConfigured s) ||| flagAt 0 (flagFault s)

/-- The output `fault_o`: a level equal to STATUS.FAULT (60_exceptions.md rule R223). -/
def faultOutput (s : State) : Bool := flagFault s

/-- The two phases (R28). The third condition, Faulted, is `flagFault`, whatever the phase. -/
inductive Phase where
  | idle
  | accumulating (k : Nat)
deriving DecidableEq, Repr

/-- The phase is a function of SEGCNT (R28). -/
def phase (s : State) : Phase := if s.segcnt = 0 then .idle else .accumulating s.segcnt.toNat

end Sys2Proof.Machine
end

