-- ==== Sys2Proof/Machine/Operands.lean ====
section
/-! DEFINITION. Operand assembly (30_encoding.md rule R98) and the integer arithmetic of stage B (00_scope.md rule R12;
41_accumulate.md rules R146, R147). The count field of a command word is read by the decoder. -/

namespace Sys2Proof.Machine

/-- A sample is `data[15:0]` of a SAMPLE write; `data[31:16]` are ignored (R98, R136, U14). -/
def sampleOf (data : Word) : Sample := data.extractLsb' 0 16

/-- `int(s)`: the value of a sample as a two's-complement integer, -32768 to 32767 (R12, R136). -/
def intOf (x : Sample) : Int := x.toInt

/-- CONFIGURE's second operand is ARG_FS "at the moment the command is processed" (R98). -/
def freqOperand (s : State) : Word := s.argFs

/-- `int(SAMP[0]) + ... + int(SAMP[n-1])`, the exact integer sum (R146). -/
def segmentSum (n : Nat) (samp : List Sample) : Int := ((samp.take n).map intOf).sum

/-- `tdiv(a, b)`: the quotient rounded toward zero (R12). -/
def tdiv (a : Int) (b : Nat) : Int :=
  if 0 ≤ a then ((a.natAbs / b : Nat) : Int) else -((a.natAbs / b : Nat) : Int)

/-- `mean = tdiv(sum, N)` (R146). -/
def segmentMean (n : Nat) (samp : List Sample) : Int := tdiv (segmentSum n samp) n

end Sys2Proof.Machine
end

