-- ==== Sys2Proof/Machine/Accumulate.lean ====
section
/-! DEFINITION. ACCUMULATE, the power accumulator (41_accumulate.md rules R140 to R159). Stages A to E are five changes
of the state, in the order of rule R140; `N` is NSAMP throughout. -/

namespace Sys2Proof.Machine

/-- `N`, the length of a segment: NSAMP as a number. -/
def segLen (s : State) : Nat := s.nsamp.toNat

/-- Stage A, lazy clear (R145): if SEGCNT = 0 the logical bins become +0.0. -/
def lazyClear (s : State) : State :=
  { s with bin := if s.segcnt = 0 then clearBins (segLen s) s.bin else s.bin }

/-- `cvt_i(int(SAMP[k]) - mean)` (R148). The difference is exact, not reduced to 16 bits (R147). -/
def centred (s : State) (k : Nat) : Word :=
  s.num.cvtI (intOf (readSamp s k) - segmentMean (segLen s) s.samp)

/-- Stage B, DC removal (R146, R148). -/
def removeMean (s : State) : State :=
  { s with
    re := mapBelow (segLen s) (fun k _ => centred s k) 0 s.re
    im := mapBelow (segLen s) (fun _ _ => posZero) 0 s.im }

/-- What the backend leaves in the first `N` entries of RE and IM (R149). -/
def backendResult (s : State) : Buffers :=
  runBackend s.cfg.backend s.draws (segLen s) { re := s.re.take (segLen s), im := s.im.take (segLen s) }

/-- Stage C, the backend (R149): three requests, after which RE[i] = magnitude[i]. -/
def callBackend (s : State) : State :=
  { s with
    re := mapBelow (segLen s) (fun k _ => (backendResult s).re.getD k 0) 0 s.re
    im := mapBelow (segLen s) (fun k _ => (backendResult s).im.getD k 0) 0 s.im
    beRequests := backendRequests s.nsamp }

/-- `fsf = cvt_u32(FS)` (R150). -/
def freqDivisor (s : State) : Word := s.num.cvtU32 s.fs.toNat

/-- `nf = cvt_u32(NSAMP)` (R150). -/
def countDivisor (s : State) : Word := s.num.cvtU32 (segLen s)

/-- The power of bin `i` for magnitude `m` (R152): square, divide by `fsf`, divide by `nf`, double for `i > 0` (R153);
`num` is the instance's numerics record, `d` the draw number of the command. -/
def binPower (num : Numerics) (d : Nat) (fsf nf : Word) (i : Nat) (m : Word) : Word :=
  let t1 := num.fmul (drawnNaN d i 0) m m
  let t2 := num.fdiv (drawnNaN d i 1) t1 fsf
  let t3 := num.fdiv (drawnNaN d i 2) t2 nf
  if i = 0 then t3 else num.fmul (drawnNaN d i 3) t3 two

/-- `BIN[i] <- fadd(BIN[i], p)` (R152). -/
def addToBin (num : Numerics) (d i : Nat) (old p : Word) : Word :=
  num.fadd (drawnNaN d i 4) old p

/-- Stage D, power and accumulation (R150, R152). -/
def addPower (s : State) : State :=
  { s with
    bin := mapBelow (segLen s)
      (fun i old => addToBin s.num s.draws i old
        (binPower s.num s.draws (freqDivisor s) (countDivisor s) i (readRe s i))) 0 s.bin }

/-- Stage E, count (R154): the segment is consumed. The command's draws are used up. -/
def countSegment (s : State) : State :=
  { s with segcnt := s.segcnt + 1, sptr := 0, draws := s.draws + 1 }

/-- Stages A to E (R140). -/
def accumulateSegment (s : State) : State := countSegment (addPower (callBackend (removeMean (lazyClear s))))

/-- ACCUMULATE (R140): not configured, then underrun, then overflow (R141 to R143), all before the first write (R144). -/
def execAccumulate (s : State) : Host.Outcome State Fault Refusal :=
  if s.nsamp = 0 then .next (raiseFault .notConfigured (encode .accumulate) s)
  else if segmentFull s = false then .next (raiseFault .sampleUnderrun (encode .accumulate) s)
  else if s.segcnt = 0xFFFFFFFF then .next (raiseFault .segOverflow (encode .accumulate) s)
  else .next (answerOk (accumulateSegment s))

end Sys2Proof.Machine
end

