-- ==== Sys2Proof/Machine/Clear.lean ====
section
/-! DEFINITION. CLEAR (43_clear.md rules R185 to R189). -/

namespace Sys2Proof.Machine

/-- CLEAR (R185): every logical bin becomes +0.0, "unconditionally" (R186); SEGCNT is not touched (R187). -/
def execClear (s : State) : Host.Outcome State Fault Refusal :=
  .next (answerOk { s with bin := clearBins s.nsamp.toNat s.bin })

end Sys2Proof.Machine
end

