-- ==== Sys2Proof/Machine/Configure.lean ====
section
/-! DEFINITION. CONFIGURE (40_configure.md rules R121 to R127). -/

namespace Sys2Proof.Machine

/-- Rule R123's violation: `count = 0` or `count > MAXN`. -/
def badCount (s : State) (count : BitVec 16) : Bool := count == 0 || decide (s.maxn < count.toNat)

/-- The writes of CONFIGURE (R121, R122): NSAMP, FS, SEGCNT and SPTR, and nothing else. -/
def applyConfig (count : BitVec 16) (s : State) : State :=
  { s with nsamp := count, fs := freqOperand s, segcnt := 0, sptr := 0 }

/-- CONFIGURE (R121): the count is tested before the frequency (R124), both before the first write. -/
def execConfigure (count : BitVec 16) (s : State) : Host.Outcome State Fault Refusal :=
  if badCount s count then .next (raiseFault .cfgCount (encode (.configure count)) s)
  else if freqOperand s = 0 then .next (raiseFault .cfgFreq (encode (.configure count)) s)
  else .next (answerOk (applyConfig count s))

end Sys2Proof.Machine
end

