-- ==== Sys2Proof/Machine/GetResult.lean ====
section
/-! DEFINITION. GETRESULT, averaging and the normalization scaler (42_getresult.md rules R170 to R179). -/

namespace Sys2Proof.Machine

/-- Finalisation of one bin (R171): divide by the count, then multiply once by the pre-squared constant; `num` is the
instance's numerics record, `d` the draw number of the command. -/
def finalBin (num : Numerics) (d : Nat) (cf corr2 : Word) (i : Nat) (sum : Word) : Word :=
  let a := num.fdiv (drawnNaN d i 0) sum cf
  num.fmul (drawnNaN d i 1) a corr2

/-- `cf = cvt_u32(SEGCNT)` (R175). -/
def segmentDivisor (s : State) : Word := s.num.cvtU32 s.segcnt.toNat

/-- The writes of GETRESULT with SEGCNT > 0 (R170): all logical bins (R174), and SEGCNT. -/
def finalizeBins (s : State) : State :=
  { s with
    bin := mapBelow s.nsamp.toNat (fun i x => finalBin s.num s.draws (segmentDivisor s) s.cfg.corr2 i x) 0 s.bin
    segcnt := 0
    draws := s.draws + 1 }

/-- GETRESULT (R170): with SEGCNT = 0 it writes nothing at all and answers OK (R172). -/
def execGetResult (s : State) : Host.Outcome State Fault Refusal :=
  if s.segcnt = 0 then .next (answerOk s) else .next (answerOk (finalizeBins s))

end Sys2Proof.Machine
end

