-- ==== Sys2Proof/Machine/Dispatch.lean ====
section
/-! DEFINITION. One arm per command: the four procedures `Command(w)` selects between (30_encoding.md rule R97). -/

namespace Sys2Proof.Machine

def exec (i : Instr) (s : State) : Host.Outcome State Fault Refusal :=
  match i with
  | .configure count => Sys2Proof.Machine.execConfigure count s
  | .accumulate => Sys2Proof.Machine.execAccumulate s
  | .getResult => Sys2Proof.Machine.execGetResult s
  | .clear => Sys2Proof.Machine.execClear s

end Sys2Proof.Machine
end

