-- ==== Sys2Proof/Machine/Port.lean ====
section
/-! DEFINITION. The host port: the register map, the two transactions, and the writes that are no command
(10_state.md rules R33 to R46; 20_memory.md rules R60 to R68; 40_configure.md rule R120; 41_accumulate.md rule R135). -/

namespace Sys2Proof.Machine

/-- The registers of the host port space (10_state.md rule R33). -/
inductive PortReg where
  | id
  | cap
  | cmd
  | status
  | argFs
  | nsamp
  | fs
  | segcnt
  | sptr
  | sample
  | corr2
  | finfo
  /-- BIN[i], in the window at 0x40000. -/
  | bin (i : Nat)
deriving DecidableEq, Repr

/-- The twelve control and status registers by byte offset (R33). -/
def regMap : List (Nat × PortReg) :=
  [ (0x00, .id), (0x04, .cap), (0x08, .cmd), (0x0C, .status), (0x10, .argFs), (0x14, .nsamp),
    (0x18, .fs), (0x1C, .segcnt), (0x20, .sptr), (0x24, .sample), (0x28, .corr2), (0x2C, .finfo) ]

/-- Where the BIN window begins (R33, R61). -/
def binBase : Nat := 0x40000

/-- The register at an address, if it is aligned (R64) and not reserved (R33, R61). -/
def regAt (maxn : Nat) (addr : PortAddr) : Option PortReg :=
  let a := addr.toNat
  if a % 4 ≠ 0 then none
  else if a < binBase then regMap.lookup a
  else if (a - binBase) / 4 < maxn then some (.bin ((a - binBase) / 4))
  else none

/-- What a read of a register returns; CMD and SAMPLE are write-only (R62, R34 to R46, R68). -/
def readReg (s : State) : PortReg → Option Word
  | .id => some 0x50534431
  | .cap => some (s.cfg.maxn.setWidth 32)
  | .cmd => none
  | .status => some (statusWord s)
  | .argFs => some s.argFs
  | .nsamp => some (s.nsamp.setWidth 32)
  | .fs => some s.fs
  | .segcnt => some s.segcnt
  | .sptr => some (s.sptr.setWidth 32)
  | .sample => none
  | .corr2 => some s.cfg.corr2
  | .finfo => some s.finfo
  | .bin i => some (readBin s i)

/-- The response to a read: `OK(data)` where there is something to read, `ERR` elsewhere (R62). -/
def readAnswer : Option Word → Answer
  | some data => .okData data
  | none => .err

/-- `HostRead(addr)` (R62): it never changes the block's state, faulted or not. -/
def hostRead (addr : PortAddr) (s : State) : State :=
  { s with answer := some (readAnswer ((regAt s.maxn addr).bind (readReg s))) }

/-- SETFS, the write of ARG_FS: any value is accepted (40_configure.md rule R120). -/
def setArgFs (data : Word) (s : State) : State := { s with argFs := data }

/-- `SAMP[SPTR] <- data[15:0]; SPTR <- SPTR + 1` (41_accumulate.md rule R135). -/
def storeSample (data : Word) (s : State) : State :=
  { s with samp := s.samp.set s.sptr.toNat (sampleOf data), sptr := s.sptr + 1 }

/-- PUSH, the write of SAMPLE (R135): a push at SPTR = NSAMP, which includes NSAMP = 0, is fault 7 (R137). -/
def push (data : Word) (s : State) : State :=
  if segmentFull s then raiseFault .sampleOverrun data s else answerOk (storeSample data s)

/-- `Command(w)` (30_encoding.md rule R97): an illegal word raises fault 1 (R99). -/
def command (w : Word) (s : State) : Host.Outcome State Fault Refusal :=
  match decode w with
  | .ok i => exec i s
  | .error _ => .next (raiseFault .illegalCmd w s)

/-- A write of a writable register, the block not being faulted (R63). -/
def writeReg (r : PortReg) (data : Word) (s : State) : Host.Outcome State Fault Refusal :=
  match r with
  | .argFs => .next (answerOk (setArgFs data s))
  | .sample => .next (push data s)
  | .cmd => command data s
  | .id | .cap | .status | .nsamp | .fs | .segcnt | .sptr | .corr2 | .finfo | .bin _ => .next (busError s)

/-- CMD, ARG_FS and SAMPLE are the registers a write may reach (R63, R66 case 4). -/
def writable : PortReg → Bool
  | .argFs | .sample | .cmd => true
  | .id | .cap | .status | .nsamp | .fs | .segcnt | .sptr | .corr2 | .finfo | .bin _ => false

/-- `HostWrite(addr, data)` (R63): alignment, then address and direction, then FCODE (R66), then the write's own
checks. While faulted every write is refused (60_exceptions.md rule R222). -/
def hostWrite (addr : PortAddr) (data : Word) (s : State) : Host.Outcome State Fault Refusal :=
  match regAt s.maxn addr with
  | none => .next (busError s)
  | some r =>
    if writable r = false then .next (busError s)
    else if flagFault s then .next (busError s)
    else writeReg r data s

/-- The effect of one transaction, whole before it is answered (20_memory.md rule R72). -/
def transact (t : Txn) (s : State) : Host.Outcome State Fault Refusal :=
  match t with
  | .read addr => .next (hostRead addr s)
  | .write addr data => hostWrite addr data s
  | .oddWidth _ _ _ => .next (busError s)
  | .reset => .next (resetBlock s)
  | .cutWrite _ _ => .next (resetCutting s)

/-- The address of CMD (R33). -/
def cmdAddr : PortAddr := 0x08

/-- The transaction that writes the command word `w` to CMD. -/
def commandTxn (w : Word) : Txn := .write cmdAddr w

/-- One step: the host's oldest transaction is accepted and performed (R72). With none waiting the block is idle and
holds its state (60_exceptions.md rule R242, 70_reset_and_hazards.md rule R248). -/
def stepPort (s : State) : Host.Outcome State Fault Refusal :=
  match s.pending with
  | [] => .next s
  | t :: rest => transact t (accept rest s)

end Sys2Proof.Machine
end

