-- ==== Sys2Proof/Machine/Step.lean ====
section
/-! DEFINITION. The step function, and how a command word is put where the next step takes it. -/

namespace Sys2Proof.Machine

/-- One transaction of the host (00_scope.md rule R19). -/
def step (s : State) : Host.Outcome State Fault Refusal := stepPort s

/-- The block fetches nothing (10_state.md rule R27): a command runs when the host writes it to CMD. So the next step
runs the command word `w` when the host's next transaction is that write (log 1). Bits of `w` above `nbits` are
dropped. -/
def State.withFetchWord (s : State) (nbits w : Nat) : State :=
  { s with pending := commandTxn (BitVec.ofNat 32 (w % 2 ^ nbits)) :: s.pending }

end Sys2Proof.Machine
end

