-- ==== Sys2Proof/Machine/RefBackend.lean ====
section
/-! DEFINITION. The reference backend RefBE (45_backend_port.md rule R205), in real arithmetic, rounded once per output. It
is "for test vectors only" and no part of the step function: a claim that names it says so. -/

namespace Sys2Proof.Machine

/-- The real number a finite pattern stands for (00_scope.md rule R14).
DESIGN CHOICE (log 25): R205 computes in real arithmetic and does not say what RefBE gives for an input entry that is an
infinity or a NaN. This definition reads such a pattern as it reads a finite one, `(2^23 + fraction) × 2^254 × 2^-149`
with its sign, which stands for nothing. The block never gives the backend such an entry (41_accumulate.md rule R148). -/
noncomputable def valueOf (p : Word) : ℝ := (scaledInt p : ℝ) / 2 ^ 149

/-- The integer nearest to a non-negative real, a tie going to the even one. -/
noncomputable def nearestEvenReal (y : ℝ) : Nat :=
  if y - ⌊y⌋₊ < 1 / 2 ∨ (y - ⌊y⌋₊ = 1 / 2 ∧ ⌊y⌋₊ % 2 = 0) then ⌊y⌋₊ else ⌊y⌋₊ + 1

/-- `rnd32` of a non-negative real (R14): `roundMag` for a real that need not be a quotient of two naturals. -/
noncomputable def roundReal (y : ℝ) : Word :=
  let q := Nat.log2 ⌊y * 2 ^ 149⌋₊ - 23
  pack false (min (q * 2 ^ 23 + nearestEvenReal (y * 2 ^ 149 / 2 ^ q)) infMag)

/-- The symmetric Hamming window `w[k] = 0.54 - 0.46 cos(2 pi k / (N - 1))` (R205). -/
noncomputable def hammingWindow (n k : Nat) : ℝ :=
  54 / 100 - 46 / 100 * Real.cos (2 * Real.pi * k / (n - 1))

/-- The unscaled forward transform of the windowed input, entry `i` (R205). -/
noncomputable def refTransform (n : Nat) (x : List Word) (i : Nat) : ℂ :=
  ∑ k ∈ Finset.range n,
    ((valueOf (x.getD k 0) * hammingWindow n k : ℝ) : ℂ) * Complex.exp (-2 * Real.pi * Complex.I * i * k / n)

/-- `RefBE(N, x)[i] = |Y[i]|`, rounded once to binary32 (R205). "RefBE is not defined for N = 1": what this says there
stands for nothing, and so does what it says for an input with an infinity or a NaN (DESIGN CHOICE, log 25). -/
noncomputable def refBackend (n : Nat) (x : List Word) : List Word :=
  (List.range n).map fun i => roundReal ‖refTransform n x i‖

end Sys2Proof.Machine
end

