-- ==== Sys2Proof/Machine/Script.lean ====
section
/-! DEFINITION. The command script (30_encoding.md rules R100, R101): one transaction a line, top to bottom, with no
labels, branches or loops; and the source's four operations as script sequences. -/

namespace Sys2Proof.Machine

/-- One line of a script (R100). Operands are numbers, as they are written. -/
inductive ScriptLine where
  | setfs (f : Nat)
  | configure (n : Nat)
  | push (x : Int)
  | accumulate
  | getresult
  | clear
  | rdbin (i : Nat)
  /-- `RD name`: one of the ten readable registers. -/
  | rd (r : PortReg)
  | cmdw (w : Nat)
  | reset
deriving DecidableEq, Repr

/-- The registers `RD` names (R100). -/
def readableNames : List PortReg :=
  [.id, .cap, .status, .argFs, .nsamp, .fs, .segcnt, .sptr, .corr2, .finfo]

/-- The operand ranges of R100. -/
def lineWellFormed : ScriptLine → Bool
  | .setfs f => f < 2 ^ 32
  | .configure n => n ≤ 65535
  | .push x => -32768 ≤ x && x ≤ 32767
  | .accumulate => true
  | .getresult => true
  | .clear => true
  | .rdbin i => i < 65536
  | .rd r => readableNames.contains r
  | .cmdw w => w < 2 ^ 32
  | .reset => true

/-- The offset of a register of the map (10_state.md rule R33). -/
def offsetOf (r : PortReg) : Nat :=
  match regMap.find? (fun row => row.2 == r) with
  | some row => row.1
  | none => 0

/-- The transaction of a line (R100). `PUSH s` writes the upper half as zero. -/
def assembleLine : ScriptLine → Txn
  | .setfs f => .write 0x10 (BitVec.ofNat 32 f)
  | .configure n => commandTxn (encode (.configure (BitVec.ofNat 16 n)))
  | .push x => .write 0x24 ((BitVec.ofInt 16 x).setWidth 32)
  | .accumulate => commandTxn (encode .accumulate)
  | .getresult => commandTxn (encode .getResult)
  | .clear => commandTxn (encode .clear)
  | .rdbin i => .read (BitVec.ofNat 19 (binBase + 4 * i))
  | .rd r => .read (BitVec.ofNat 19 (offsetOf r))
  | .cmdw w => commandTxn (BitVec.ofNat 32 w)
  | .reset => .reset

/-- A script's transactions, in order (R100). -/
def assemble (lines : List ScriptLine) : List Txn := lines.map assembleLine

/-- `CONFIG n, f` (R101): the source's Configure(n, f). -/
def pseudoConfig (n f : Nat) : List ScriptLine := [.setfs f, .configure n]

/-- `SEGMENT s0, ..., s(k-1)` (R101): the source's AccumulateSegment(samples). -/
def pseudoSegment (xs : List Int) : List ScriptLine := xs.map .push ++ [.accumulate]

/-- `RESULT` for `n` logical bins (R101): the source's GetResult(), the whole sequence. -/
def pseudoResult (n : Nat) : List ScriptLine := .getresult :: (List.range n).map .rdbin

/-- `RESULTHALF` for `n` logical bins (R101): only the meaningful entries, `floor(n/2) + 1` of them. -/
def pseudoResultHalf (n : Nat) : List ScriptLine := .getresult :: (List.range (n / 2 + 1)).map .rdbin

/-- `CLEAR` (R101): the source's Clear(). -/
def pseudoClear : List ScriptLine := [.clear]

/-- The state in which the host is about to issue the transactions of a script. -/
def withScript (s : State) (lines : List ScriptLine) : State := { s with pending := assemble lines }

end Sys2Proof.Machine
end

