-- ==== Sys2Proof/Safety.lean ====
section
/-! DEFINITION. What a claim calls a good state and a good run (10_state.md rule R47; 60_exceptions.md rule R221;
70_reset_and_hazards.md rule R248). -/

namespace Sys2Proof.Machine

/-- The block is not faulted. A claim about a script takes this as a premise throughout, or proves it (R221). -/
abbrev Unfaulted (s : State) : Prop := s.fcode = 0

/-- The instance computes in the format the spec fixes (00_scope.md rule R8). A claim about bit patterns takes this as a
premise. -/
abbrev UsesBinary32 (s : State) : Prop := s.cfg.arithmetic = .binary32

/-- What a running sum may be (10_state.md rule R47 clause 4): +0, positive, +infinity, or a NaN. -/
def sumShaped (p : Word) : Bool := isNaN p || !signBit p

/-- Every register file has MAXN entries (R20). -/
abbrev ArraysFit (s : State) : Prop :=
  s.bin.length = s.maxn ∧ s.re.length = s.maxn ∧ s.im.length = s.maxn ∧ s.samp.length = s.maxn

/-- The invariant of rule R47, clauses 1 to 4 and 6 (clause 5 is about steps), with the legality of the parameters, the
capacity of the register files, and FINFO = 0 while unfaulted (R45). Clause 4 speaks of binary32 patterns, so it is asked
of an instance with that format. -/
abbrev Inv (s : State) : Prop :=
  s.cfg.Legal ∧ ArraysFit s ∧
  s.sptr.toNat ≤ s.nsamp.toNat ∧ s.nsamp.toNat ≤ s.maxn ∧
  (s.fs = 0 ↔ s.nsamp = 0) ∧
  (s.segcnt ≠ 0 → s.nsamp ≠ 0) ∧
  (UsesBinary32 s → s.segcnt ≠ 0 → ∀ i, i < s.nsamp.toNat → sumShaped (readBin s i) = true) ∧
  s.fcode.toNat ≤ 7 ∧
  (s.fcode = 0 → s.finfo = 0)

/-- ACCUMULATE's three preconditions (41_accumulate.md rules R141 to R143): configured, `NSAMP` samples pushed, the segment
count below its maximum. -/
abbrev SegmentReady (s : State) : Prop :=
  s.nsamp ≠ 0 ∧ s.sptr.toNat = s.nsamp.toNat ∧ s.segcnt ≠ 0xFFFFFFFF

/-- The register files hold the logical entries: `NSAMP <= MAXN` (10_state.md rule R24) and every file has MAXN entries. -/
abbrev Fits (s : State) : Prop := ArraysFit s ∧ s.nsamp.toNat ≤ s.maxn

/-- The transaction asserts reset, between transactions or inside one (70_reset_and_hazards.md rules R245, R246). -/
def isReset : Txn → Bool
  | .reset => true
  | .cutWrite _ _ => true
  | .read _ => false
  | .write _ _ => false
  | .oddWidth _ _ _ => false

/-- The spec's own state, without the model's fields: two states that agree here hold the same architectural state
(R20). -/
structure ArchState where
  nsamp : BitVec 16
  fs : Word
  argFs : Word
  segcnt : Word
  bin : List Word
  re : List Word
  im : List Word
  samp : List Sample
  sptr : BitVec 17
  fcode : BitVec 8
  finfo : Word
deriving DecidableEq, Repr

/-- The architectural state of a state. -/
def arch (s : State) : ArchState :=
  { nsamp := s.nsamp, fs := s.fs, argFs := s.argFs, segcnt := s.segcnt, bin := s.bin, re := s.re, im := s.im,
    samp := s.samp, sptr := s.sptr, fcode := s.fcode, finfo := s.finfo }

/-- `k` steps of the machine. -/
def afterSteps : Nat → State → Host.Outcome State Fault Refusal
  | 0, s => .next s
  | k + 1, s =>
    match step s with
    | .next t => afterSteps k t
    | .fault r => .fault r
    | .refused r => .refused r

/-- The answers to the next `k` transactions, in order, up to where the machine stops (it never does). -/
def answers : Nat → State → List (Option Answer)
  | 0, _ => []
  | k + 1, s =>
    match step s with
    | .next t => t.answer :: answers k t
    | .fault _ => []
    | .refused _ => []

/-- What R248 asks of the answer to a transaction: `OK`, with or without data. Two points are the model's choice (DESIGN
CHOICE, log 27), for R248 leaves them open. A reset between transactions has no answer, and counts as good. A write that a
reset cuts off is judged by its drawn answer: it is good if that is `OK`, and not good if it is `ERR` or none, since then it
was not answered `OK`. -/
def answerGood (u : Txn) : Option Answer → Bool
  | some .ok => true
  | some (.okData _) => true
  | some .err => false
  | none =>
    match u with
    | .reset => true
    | .cutWrite _ _ => false
    | .read _ => false
    | .write _ _ => false
    | .oddWidth _ _ _ => false

/-- A script is successful when every transaction of it was answered `OK` (R248; log 27 for resets). -/
def scriptSuccessful (s : State) : Bool :=
  (s.pending.zip (answers s.pending.length s)).all fun p => answerGood p.1 p.2

end Sys2Proof.Machine
end

