-- ==== Sys2Proof/Certificates/Slice0/Obligations.lean ====
section
/-! DEFINITION. The statements for the provers. Each says a rule of spec/ in the spec's own terms; a statement about a
command gives its whole next state as a change of the old one, which is its frame. A free value is stated for every value
it may take. -/

open Sys2Proof Sys2Proof.Machine

/-! ## Encoding and decode (30_encoding.md) -/

/-- R92 to R97: a word decodes to an instruction exactly when it is that instruction's encoding, so every operand value
comes back and each word has one meaning. -/
def Obligations.DecodeIsInverseOfEncode : Prop :=
  ∀ (w : Word) (i : Instr), decode w = .ok i ↔ (i.wellFormed = true ∧ encode i = w)

/-- R92: the four rows of the opcode map; a word encodes the command of a row exactly when `(w AND mask) = match`, and
every other word is illegal. -/
def Obligations.WordEncodesRowExactlyOnMaskMatch : Prop :=
  opcodeMap =
    [⟨"CONFIGURE", 0x01000000, 0xFFFF0000⟩, ⟨"ACCUMULATE", 0x02000000, 0xFFFFFFFF⟩,
     ⟨"GETRESULT", 0x03000000, 0xFFFFFFFF⟩, ⟨"CLEAR", 0x04000000, 0xFFFFFFFF⟩] ∧
  (∀ (w : Word) (row : OpcodeRow), row ∈ opcodeMap →
    ((∃ i, decode w = .ok i ∧ i.mnemonic = row.mnemonic) ↔ w &&& row.maskBits = row.matchBits)) ∧
  (∀ w : Word, (∀ row ∈ opcodeMap, w &&& row.maskBits ≠ row.matchBits) → ∃ e, decode w = .error e)

/-- R99: the words that are illegal, read as numbers, and what writing one to CMD does: contract fault 1 with FINFO the
word, and nothing else. -/
def Obligations.IllegalWordRaisesFaultOne : Prop :=
  ∀ w : Word,
    let op := w.toNat / 2 ^ 24
    let illegal := (op = 0 ∨ 4 < op) ∨ (op = 1 ∧ w.toNat / 2 ^ 16 % 2 ^ 8 ≠ 0) ∨
      (2 ≤ op ∧ op ≤ 4 ∧ w.toNat % 2 ^ 24 ≠ 0)
    (legalWord w = false ↔ illegal) ∧
    (illegal → ∀ (s : State) (rest : List Txn), s.pending = .write 0x08 w :: rest → s.fcode = 0 →
      step s = .next { s with
        pending := rest, beRequests := [], answer := some .err, fcode := 1, finfo := w })

/-- 95_test_vectors.md V1 to V9: command words written out, and what they decode to. -/
def Obligations.WrittenOutWordsDecode : Prop :=
  decode 0x01000040 = .ok (.configure 64) ∧ decode 0x0100FFFF = .ok (.configure 65535) ∧
  decode 0x01000000 = .ok (.configure 0) ∧ decode 0x02000000 = .ok .accumulate ∧
  decode 0x03000000 = .ok .getResult ∧ decode 0x04000000 = .ok .clear ∧
  decode 0x01010040 = .error (.reservedBits 1) ∧ decode 0x02000001 = .error (.reservedBits 2) ∧
  decode 0x03800000 = .error (.reservedBits 3) ∧ decode 0x00000000 = .error (.unknownOp 0) ∧
  decode 0x05000000 = .error (.unknownOp 5) ∧ decode 0xFFFFFFFF = .error (.unknownOp 255)

/-! ## The step (00_scope.md R19; 20_memory.md R63, R72; 30_encoding.md R97) -/

/-- R97, R63, R72: when the host's next transaction writes to CMD a word that decodes to `i`, and the block is not faulted,
the step is `exec i` on the state in which that transaction has been accepted. The second clause, about `withFetchWord`, is
the model's choice (log 1) and no rule of the spec: the block fetches nothing (R27), and `withFetchWord` stands for the load
of a program from outside by putting such a write first. -/
def Obligations.StepRunsTheDecodedCommand : Prop :=
  (∀ (s : State) (w : Word) (i : Instr) (rest : List Txn),
    s.pending = .write 0x08 w :: rest → s.fcode = 0 → decode w = .ok i →
    step s = exec i { s with pending := rest, answer := none, beRequests := [] }) ∧
  (∀ (s : State) (w : Word) (i : Instr), s.fcode = 0 → decode w = .ok i →
    step (s.withFetchWord 32 w.toNat) = exec i { s with answer := none, beRequests := [] })

/-- The model's choice (log 12): with no transaction waiting the block holds its state. -/
def Obligations.IdlePortHoldsState : Prop :=
  ∀ s : State, s.pending = [] → step s = .next s

/-- R263, R72, R49: every transaction is answered by a next state, one transaction a step in the host's order, and the
parameters never change. The machine neither faults nor refuses. -/
def Obligations.EveryTransactionCompletes : Prop :=
  ∀ s : State, ∃ t, step s = .next t ∧ t.pending = s.pending.tail ∧ t.cfg = s.cfg ∧ s.draws ≤ t.draws

/-! ## CONFIGURE and SETFS (40_configure.md) -/

/-- R121: both faults in their order, and otherwise exactly the four writes; the flags afterwards. -/
def Obligations.ConfigureWholeEffect : Prop :=
  ∀ (count : BitVec 16) (s : State),
    ((count.toNat = 0 ∨ s.cfg.maxn.toNat < count.toNat) →
      exec (.configure count) s = .next { s with
        fcode := 2, finfo := 0x01000000 ||| count.setWidth 32, answer := some .err }) ∧
    (1 ≤ count.toNat → count.toNat ≤ s.cfg.maxn.toNat → s.argFs = 0 →
      exec (.configure count) s = .next { s with
        fcode := 3, finfo := 0x01000000 ||| count.setWidth 32, answer := some .err }) ∧
    (1 ≤ count.toNat → count.toNat ≤ s.cfg.maxn.toNat → s.argFs ≠ 0 →
      ∃ t, exec (.configure count) s = .next t ∧
        t = { s with nsamp := count, fs := s.argFs, segcnt := 0, sptr := 0, answer := some .ok } ∧
        flagConfigured t = true ∧ flagPending t = false ∧ flagReady t = false)

/-- R125: CONFIGURE does not touch the bins, and a GETRESULT directly after one that succeeded is the no-op. -/
def Obligations.ConfigureLeavesStaleBins : Prop :=
  ∀ (count : BitVec 16) (s t : State), exec (.configure count) s = .next t →
    (∀ i, readBin t i = readBin s i) ∧
    (t.answer = some .ok → exec .getResult t = .next t)

/-- R126: a second CONFIGURE with the same operands leaves the same state as one, and one that succeeds forces Idle. -/
def Obligations.ConfigureIsIdempotent : Prop :=
  ∀ (count : BitVec 16) (s t : State), exec (.configure count) s = .next t →
    exec (.configure count) t = .next t ∧ (t.answer = some .ok → phase t = .idle)

/-- R120: SETFS stores any value, is refused while faulted, and no command changes ARG_FS. -/
def Obligations.SetfsStagesTheFrequency : Prop :=
  (∀ (s : State) (data : Word) (rest : List Txn), s.pending = .write 0x10 data :: rest →
    (s.fcode = 0 → step s = .next { s with
      pending := rest, beRequests := [], answer := some .ok, argFs := data }) ∧
    (s.fcode ≠ 0 → step s = .next { s with pending := rest, beRequests := [], answer := some .err })) ∧
  (∀ (i : Instr) (s t : State), exec i s = .next t → t.argFs = s.argFs)

/-! ## PUSH and ACCUMULATE (41_accumulate.md) -/

/-- R135: the three outcomes of a PUSH; when it stores, only SAMP[SPTR] and SPTR change, whatever `data[31:16]` are, and
READY tells whether the segment is now whole. -/
def Obligations.PushStoresOneSample : Prop :=
  ∀ (s : State) (data : Word) (rest : List Txn), s.pending = .write 0x24 data :: rest →
    (s.fcode ≠ 0 → step s = .next { s with pending := rest, beRequests := [], answer := some .err }) ∧
    (s.fcode = 0 → s.sptr.toNat = s.nsamp.toNat →
      step s = .next { s with
        pending := rest, beRequests := [], answer := some .err, fcode := 7, finfo := data }) ∧
    (s.fcode = 0 → s.sptr.toNat ≠ s.nsamp.toNat →
      ∃ t, step s = .next t ∧
        t = { s with
          pending := rest, beRequests := [], answer := some .ok, samp := t.samp, sptr := s.sptr + 1 } ∧
        t.samp.length = s.samp.length ∧
        (s.sptr.toNat < s.samp.length → readSamp t s.sptr.toNat = BitVec.ofNat 16 data.toNat) ∧
        (∀ k, k ≠ s.sptr.toNat → readSamp t k = readSamp s k) ∧
        (flagReady t = true ↔ s.nsamp ≠ 0 ∧ (s.sptr + 1).toNat = s.nsamp.toNat))

/-- R140 to R144: ACCUMULATE's three checks in their order; the first that fails raises its fault and nothing else is
written. -/
def Obligations.AccumulateFaultsInOrder : Prop :=
  ∀ s : State,
    (s.nsamp = 0 →
      exec .accumulate s = .next { s with fcode := 4, finfo := 0x02000000, answer := some .err }) ∧
    (s.nsamp ≠ 0 → s.sptr.toNat ≠ s.nsamp.toNat →
      exec .accumulate s = .next { s with fcode := 5, finfo := 0x02000000, answer := some .err }) ∧
    (s.nsamp ≠ 0 → s.sptr.toNat = s.nsamp.toNat → s.segcnt.toNat = 2 ^ 32 - 1 →
      exec .accumulate s = .next { s with fcode := 6, finfo := 0x02000000, answer := some .err })

/-- R140, R145 to R154: a ready ACCUMULATE completes. RE holds the magnitudes the backend function gives for the samples
less their truncated mean; every logical bin gets `m*m / FS / N`, doubled for `i > 0`, added to its sum (to +0 at the start
of a cycle), each operation that of the instance's numerics record (of binary32: `f32Mul` and so on, rounded, its NaN
pattern any NaN); everything the rule does not name is unchanged. -/
def Obligations.AccumulateAddsPowerToEveryBin : Prop :=
  numerics .binary32 = ⟨f32Mul, f32Div, f32Add, f32OfNat, f32OfInt⟩ ∧
  ∀ s : State, SegmentReady s → Fits s →
    ∃ t, exec .accumulate s = .next t ∧
      t = { s with
        bin := t.bin, re := t.re, im := t.im, segcnt := s.segcnt + 1, sptr := 0, answer := some .ok
        beRequests := t.beRequests, draws := t.draws } ∧
      t.segcnt.toNat = s.segcnt.toNat + 1 ∧ ArraysFit t ∧
      (∀ i, s.nsamp.toNat ≤ i → readBin t i = readBin s i ∧ readRe t i = readRe s i ∧ readIm t i = readIm s i) ∧
      (let num := numerics s.cfg.arithmetic
       let n := s.nsamp.toNat
       let mean := Int.tdiv ((s.samp.take n).map BitVec.toInt).sum n
       let x := (List.range n).map fun k => num.cvtI ((readSamp s k).toInt - mean)
       let fsf := num.cvtU32 s.fs.toNat
       let nf := num.cvtU32 n
       ∀ i, i < n →
        readRe t i = (backendFunction s.cfg.backend n x).getD i 0 ∧
        ∃ n0 n1 n2 n3 n4 : Word,
          isNaN n0 = true ∧ isNaN n1 = true ∧ isNaN n2 = true ∧ isNaN n3 = true ∧ isNaN n4 = true ∧
          (let m := readRe t i
           let t3 := num.fdiv n2 (num.fdiv n1 (num.fmul n0 m m) fsf) nf
           let p := if i = 0 then t3 else num.fmul n3 t3 0x40000000
           readBin t i = num.fadd n4 (if s.segcnt = 0 then 0 else readBin s i) p))

/-- R197: the three requests of an ACCUMULATE, with the codes of R196, and no other command, push, read or write issues one.
Three points are the model's choice and no rule of the spec: that FFT and MAG carry window type 0 and MAG direction 0 (log
14); that a reset leaves no request to be seen (log 8); and that a write cut off by reset, an ACCUMULATE too, shows no request
(log 8, log 9), where R197 and R246 leave open which requests it had issued before the reset. -/
def Obligations.BackendRequestsInSequence : Prop :=
  (∀ s : State, SegmentReady s →
    ∃ t, exec .accumulate s = .next t ∧
      t.beRequests = [⟨0, s.nsamp, 0, 0⟩, ⟨1, s.nsamp, 0, 0⟩, ⟨2, s.nsamp, 0, 0⟩]) ∧
  (∀ (s t : State) (u : Txn) (rest : List Txn), s.pending = u :: rest → step s = .next t →
    t.beRequests ≠ [] → u = .write 0x08 0x02000000 ∧ t.answer = some .ok)

/-- R198, R199, R202: serving the requests, RE depends on the length and the buffers alone (not on the draw), and WINDOW
does not touch IM. -/
def Obligations.BackendIsAFunctionOfItsBuffers : Prop :=
  (∀ (b : Backend) (d d' n : Nat) (buf : Buffers), (runBackend b d n buf).re = (runBackend b d' n buf).re) ∧
  (∀ (b : Backend) (d n : Nat) (buf : Buffers), (serve b d n .window buf).im = buf.im) ∧
  (∀ (b : Backend) (n : Nat) (x : List Word), (backendFunction b n x).length = n)

/-- R198, R25: the magnitudes of a segment depend on the instance, N and the samples alone: not on the bins, FS, SEGCNT, the
old scratch buffers, or earlier calls. -/
def Obligations.MagnitudesDependOnSegmentOnly : Prop :=
  ∀ s s' : State, SegmentReady s → Fits s → SegmentReady s' → Fits s' →
    s'.cfg = s.cfg → s'.nsamp = s.nsamp → (∀ k, k < s.nsamp.toNat → readSamp s' k = readSamp s k) →
    ∃ t t', exec .accumulate s = .next t ∧ exec .accumulate s' = .next t' ∧
      ∀ i, i < s.nsamp.toNat → readRe t' i = readRe t i

/-- R145: a new cycle is independent of what the bins held; the entries at or above NSAMP are not written. -/
def Obligations.LazyClearForgetsOldBins : Prop :=
  ∀ (s : State) (b : List Word), SegmentReady s → Fits s → s.segcnt = 0 → b.length = s.maxn →
    ∃ t t', exec .accumulate s = .next t ∧ exec .accumulate { s with bin := b } = .next t' ∧
      t' = { t with bin := t'.bin } ∧
      (∀ i, i < s.nsamp.toNat → readBin t' i = readBin t i) ∧
      (∀ i, s.nsamp.toNat ≤ i → readBin t' i = b.getD i 0)

/-- R146: the sum fits a signed 32-bit adder, the mean is the quotient rounded toward zero, and it fits a sample. -/
def Obligations.MeanFitsASample : Prop :=
  (∀ (n : Nat) (xs : List Sample), 1 ≤ n → n ≤ 65535 → n ≤ xs.length →
    (segmentSum n xs).natAbs ≤ 65535 * 32768 ∧ (65535 * 32768 : Nat) < 2 ^ 31 ∧
    segmentMean n xs = Int.tdiv (segmentSum n xs) n ∧
    -32768 ≤ segmentMean n xs ∧ segmentMean n xs ≤ 32767) ∧
  tdiv (-1) 2 = 0 ∧ tdiv (-7) 2 = -3

/-- R147, R148: the difference is exact, within -65535 to 65535, and converts exactly; a zero difference gives +0. -/
def Obligations.DifferenceConvertsExactly : Prop :=
  ∀ (n k : Nat) (xs : List Sample), 1 ≤ n → n ≤ 65535 → n ≤ xs.length → k < n →
    let d := (xs.getD k 0).toInt - segmentMean n xs
    (-65535 : Int) ≤ d ∧ d ≤ 65535 ∧ isFinite (f32OfInt d) = true ∧ scaledInt (f32OfInt d) = d * 2 ^ 149 ∧
    (d = 0 → f32OfInt d = 0x00000000)

/-- R152, R153, R155: for a magnitude that is no NaN, the power of every bin `i > 0` is exactly the doubled power of bin 0,
whatever NaN patterns are drawn; neither is negative or a NaN; and the doubling is exact unless it overflows. -/
def Obligations.PowerIsDoubledAboveBinZero : Prop :=
  ∀ (d d' fs n i : Nat) (nan m : Word), 1 ≤ fs → fs < 2 ^ 32 → 1 ≤ n → n ≤ 65535 → 0 < i → isNaN m = false →
    let p0 := binPower binary32 d' (f32OfNat fs) (f32OfNat n) 0 m
    let pi := binPower binary32 d (f32OfNat fs) (f32OfNat n) i m
    pi = f32Mul nan p0 0x40000000 ∧
    isNaN p0 = false ∧ signBit p0 = false ∧ isNaN pi = false ∧ signBit pi = false ∧
    (isFinite pi = true → scaled pi = 2 * scaled p0)

/-- R158 (1), for a backend with BE-zero (R206): a constant segment adds exactly nothing. In a running cycle every bin that
is no NaN and not -0 keeps its pattern; at the start of a cycle every logical bin becomes +0. -/
def Obligations.ConstantSegmentAddsNothing : Prop :=
  ∀ (s : State) (c : Sample), UsesBinary32 s → SegmentReady s → Fits s → s.fs ≠ 0 →
    BeZero (backendFunction s.cfg.backend) → (∀ k, k < s.nsamp.toNat → readSamp s k = c) →
    ∃ t, exec .accumulate s = .next t ∧
      ∀ i, i < s.nsamp.toNat →
        readRe t i = 0 ∧ (s.segcnt = 0 → readBin t i = 0) ∧
        (s.segcnt ≠ 0 → isNaN (readBin s i) = false → readBin s i ≠ 0x80000000 → readBin t i = readBin s i)

/-- R254, for a backend with BE-even (R206): in a cycle's first segment the upper half of the bins mirrors the lower, where
the magnitudes are no NaN. -/
def Obligations.UpperHalfMirrorsLowerHalf : Prop :=
  ∀ s : State, UsesBinary32 s → SegmentReady s → Fits s → s.fs ≠ 0 → s.segcnt = 0 → BeEven (backendFunction s.cfg.backend) →
    ∃ t, exec .accumulate s = .next t ∧
      ∀ i, 1 ≤ i → i < s.nsamp.toNat → isNaN (readRe t i) = false →
        readBin t (s.nsamp.toNat - i) = readBin t i

/-! ## GETRESULT (42_getresult.md) -/

/-- R170, R171, R174, R175: with SEGCNT > 0 every logical bin becomes `BIN[i] / SEGCNT * CORR2` in the instance's numerics
record (of binary32: two roundings, its NaN patterns any NaN); SEGCNT becomes 0; everything else is unchanged, the entries at or above NSAMP among it. -/
def Obligations.GetResultFinalisesEveryBin : Prop :=
  numerics .binary32 = ⟨f32Mul, f32Div, f32Add, f32OfNat, f32OfInt⟩ ∧
  ∀ s : State, s.segcnt ≠ 0 → Fits s →
    ∃ t, exec .getResult s = .next t ∧
      t = { s with bin := t.bin, segcnt := 0, answer := some .ok, draws := t.draws } ∧
      t.bin.length = s.maxn ∧ flagPending t = false ∧
      (∀ i, s.nsamp.toNat ≤ i → readBin t i = readBin s i) ∧
      (∀ i, i < s.nsamp.toNat → ∃ n0 n1 : Word, isNaN n0 = true ∧ isNaN n1 = true ∧
        readBin t i = (numerics s.cfg.arithmetic).fmul n1
          ((numerics s.cfg.arithmetic).fdiv n0 (readBin s i) ((numerics s.cfg.arithmetic).cvtU32 s.segcnt.toNat))
          s.cfg.corr2)

/-- R172: with SEGCNT = 0 GETRESULT writes nothing at all and answers OK. -/
def Obligations.GetResultIdleIsNoOp : Prop :=
  ∀ s : State, s.segcnt = 0 → exec .getResult s = .next { s with answer := some .ok }

/-- R177 (1): a second GETRESULT in a row changes nothing, so every bin keeps its bit pattern. -/
def Obligations.SecondGetResultChangesNothing : Prop :=
  ∀ s : State, ∃ t, exec .getResult s = .next t ∧ exec .getResult t = .next t ∧ phase t = .idle

/-- R177 (2), its arithmetic for k = 2: a law of `fadd`, `fdiv` and `cvt_u32` on one pattern. The sum of a power and itself,
divided by two, is the power again, unless the sum overflows. -/
def Obligations.HalfOfDoubledPowerIsThePower : Prop :=
  ∀ p nan nan' : Word, isFinite p = true → signBit p = false → isFinite (f32Add nan p p) = true →
    f32Div nan' (f32Add nan p p) (f32OfNat 2) = p

/-- R177 (2) for k = 2, of the machine: after ACCUMULATE, the same samples delivered again (SPTR back at NSAMP, SAMP kept),
ACCUMULATE and GETRESULT, every logical bin holds the pattern that GETRESULT leaves after the first segment alone, where the
magnitude is no NaN and the sum of the two powers is finite. -/
def Obligations.TwoEqualSegmentsGiveTheSingleResult : Prop :=
  ∀ s : State, UsesBinary32 s → s.cfg.Legal → SegmentReady s → Fits s → s.fs ≠ 0 → s.segcnt = 0 →
    ∃ t u one both, exec .accumulate s = .next t ∧ exec .accumulate { t with sptr := s.sptr } = .next u ∧
      exec .getResult t = .next one ∧ exec .getResult u = .next both ∧
      ∀ i, i < s.nsamp.toNat → isNaN (readRe t i) = false → isFinite (readBin u i) = true →
        readBin both i = readBin one i

/-- R178 (3), R187 (3): GETRESULT directly after a CLEAR gives +0 in every logical bin and returns to Idle. -/
def Obligations.GetResultAfterClearGivesZeros : Prop :=
  ∀ s : State, UsesBinary32 s → s.cfg.Legal → s.segcnt ≠ 0 → Fits s →
    ∃ t u, exec .clear s = .next t ∧ exec .getResult t = .next u ∧
      (∀ i, i < s.nsamp.toNat → readBin u i = 0) ∧ phase u = .idle

/-- R176: finalisation keeps a bin's shape: +0 stays +0, infinity stays infinity, a NaN stays a NaN, and no bin becomes
negative. -/
def Obligations.FinalisationKeepsSpecialValues : Prop :=
  ∀ s : State, UsesBinary32 s → s.cfg.Legal → s.segcnt ≠ 0 → Fits s →
    ∃ t, exec .getResult s = .next t ∧
      ∀ i, i < s.nsamp.toNat →
        (readBin s i = 0 → readBin t i = 0) ∧
        (readBin s i = 0x7F800000 → readBin t i = 0x7F800000) ∧
        (isNaN (readBin s i) = true → isNaN (readBin t i) = true) ∧
        (sumShaped (readBin s i) = true → sumShaped (readBin t i) = true)

/-! ## CLEAR (43_clear.md) -/

/-- R185: every logical bin becomes +0 and nothing else changes: not SEGCNT, not the entries at or above NSAMP. -/
def Obligations.ClearZeroesLogicalBins : Prop :=
  ∀ s : State, Fits s →
    ∃ t, exec .clear s = .next t ∧ t = { s with bin := t.bin, answer := some .ok } ∧ t.bin.length = s.maxn ∧
      (∀ i, i < s.nsamp.toNat → readBin t i = 0x00000000) ∧
      (∀ i, s.nsamp.toNat ≤ i → readBin t i = readBin s i)

/-- R189, R186: two CLEARs in a row leave the same state as one, no backend request is issued, and before the first CONFIGURE
CLEAR changes nothing. -/
def Obligations.ClearIsIdempotent : Prop :=
  ∀ s : State, ∃ t, exec .clear s = .next t ∧ exec .clear t = .next t ∧
    t.beRequests = s.beRequests ∧ t.samp = s.samp ∧ t.sptr = s.sptr ∧
    (s.nsamp = 0 → t = { s with answer := some .ok })

/-! ## The host port (20_memory.md, 10_state.md) -/

/-- R62: what a read of each address answers; it changes nothing, whatever it answers and whether or not the block is
faulted. -/
def Obligations.HostReadAnswersTheMap : Prop :=
  ∀ (s : State) (addr : PortAddr) (rest : List Txn), s.pending = .read addr :: rest →
    let a := addr.toNat
    step s = .next { s with
      pending := rest, beRequests := []
      answer := some (
        if a % 4 ≠ 0 then .err
        else if a = 0x00 then .okData 0x50534431
        else if a = 0x04 then .okData (BitVec.ofNat 32 s.cfg.maxn.toNat)
        else if a = 0x0C then .okData (statusWord s)
        else if a = 0x10 then .okData s.argFs
        else if a = 0x14 then .okData (BitVec.ofNat 32 s.nsamp.toNat)
        else if a = 0x18 then .okData s.fs
        else if a = 0x1C then .okData s.segcnt
        else if a = 0x20 then .okData (BitVec.ofNat 32 s.sptr.toNat)
        else if a = 0x28 then .okData s.cfg.corr2
        else if a = 0x2C then .okData s.finfo
        else if 0x40000 ≤ a ∧ a < 0x40000 + 4 * s.cfg.maxn.toNat then .okData (readBin s ((a - 0x40000) / 4))
        else .err) }

/-- R29, R37: each flag at its bit of STATUS, FCODE in bits 15:8, the other bits 0. -/
def Obligations.StatusWordFields : Prop :=
  ∀ s : State,
    ((statusWord s).getLsbD 0 = true ↔ s.fcode ≠ 0) ∧
    ((statusWord s).getLsbD 1 = true ↔ s.nsamp ≠ 0) ∧
    ((statusWord s).getLsbD 2 = true ↔ s.segcnt ≠ 0) ∧
    ((statusWord s).getLsbD 3 = true ↔ s.nsamp ≠ 0 ∧ s.sptr.toNat = s.nsamp.toNat) ∧
    (∀ k, 4 ≤ k → k < 8 → (statusWord s).getLsbD k = false) ∧
    (∀ k, k < 8 → (statusWord s).getLsbD (8 + k) = s.fcode.getLsbD k) ∧
    (∀ k, 16 ≤ k → (statusWord s).getLsbD k = false)

/-- R66: a transaction other than a reset is answered ERR and changes no architectural state in exactly the six cases. -/
def Obligations.BusErrorsAreExactlyTheSixCases : Prop :=
  ∀ (s t : State) (u : Txn) (rest : List Txn), s.pending = u :: rest → isReset u = false → step s = .next t →
    ((t.answer = some .err ∧ arch t = arch s) ↔
      ((∃ width isWrite addr, u = .oddWidth width isWrite addr) ∨
       (∃ addr, u = .read addr ∧
         (addr.toNat % 4 ≠ 0 ∨ addr = 0x08 ∨ addr = 0x24 ∨ (0x30 ≤ addr.toNat ∧ addr.toNat < 0x40000) ∨
          0x40000 + 4 * s.cfg.maxn.toNat ≤ addr.toNat)) ∨
       (∃ addr data, u = .write addr data ∧
         (addr.toNat % 4 ≠ 0 ∨ (addr ≠ 0x08 ∧ addr ≠ 0x10 ∧ addr ≠ 0x24) ∨ s.fcode ≠ 0))))

/-- R100: each line of a script, its operands in range, is the transaction the table names, read as numbers. -/
def Obligations.ScriptLinesAreTheirTransactions : Prop :=
  (∀ f : Nat, lineWellFormed (.setfs f) = true →
    ∃ d : Word, assembleLine (.setfs f) = .write 0x10 d ∧ d.toNat = f) ∧
  (∀ n : Nat, lineWellFormed (.configure n) = true →
    ∃ w : Word, assembleLine (.configure n) = .write 0x08 w ∧ w.toNat = 0x01000000 + n) ∧
  (∀ x : Int, lineWellFormed (.push x) = true →
    ∃ d : Word, assembleLine (.push x) = .write 0x24 d ∧ d.toNat < 2 ^ 16 ∧ (sampleOf d).toInt = x) ∧
  assembleLine .accumulate = .write 0x08 0x02000000 ∧ assembleLine .getresult = .write 0x08 0x03000000 ∧
  assembleLine .clear = .write 0x08 0x04000000 ∧ assembleLine .reset = .reset ∧
  (∀ i : Nat, lineWellFormed (.rdbin i) = true →
    ∃ a : PortAddr, assembleLine (.rdbin i) = .read a ∧ a.toNat = 0x40000 + 4 * i) ∧
  (∀ r : PortReg, lineWellFormed (.rd r) = true → ∀ maxn : Nat,
    ∃ a : PortAddr, assembleLine (.rd r) = .read a ∧ regAt maxn a = some r) ∧
  (∀ w : Nat, lineWellFormed (.cmdw w) = true →
    ∃ d : Word, assembleLine (.cmdw w) = .write 0x08 d ∧ d.toNat = w)

/-! ## Contract faults (60_exceptions.md) -/

/-- R216: from an unfaulted state, each code is recorded in exactly the case its row names, with the word the row names in
FINFO; no other code is ever produced. The rows exclude each other: the priority of R218 is in their conditions. -/
def Obligations.FaultCodesAreExactlyTheTable : Prop :=
  ∀ (s t : State) (u : Txn) (rest : List Txn), s.pending = u :: rest → s.fcode = 0 → step s = .next t →
    (t.fcode = 1 ↔ ∃ w, u = .write 0x08 w ∧ legalWord w = false) ∧
    (t.fcode = 2 ↔ ∃ c : BitVec 16, u = .write 0x08 (0x01000000 ||| c.setWidth 32) ∧
      (c = 0 ∨ s.cfg.maxn.toNat < c.toNat)) ∧
    (t.fcode = 3 ↔ ∃ c : BitVec 16, u = .write 0x08 (0x01000000 ||| c.setWidth 32) ∧
      c ≠ 0 ∧ c.toNat ≤ s.cfg.maxn.toNat ∧ s.argFs = 0) ∧
    (t.fcode = 4 ↔ u = .write 0x08 0x02000000 ∧ s.nsamp = 0) ∧
    (t.fcode = 5 ↔ u = .write 0x08 0x02000000 ∧ s.nsamp ≠ 0 ∧ s.sptr.toNat ≠ s.nsamp.toNat) ∧
    (t.fcode = 6 ↔ u = .write 0x08 0x02000000 ∧ s.nsamp ≠ 0 ∧ s.sptr.toNat = s.nsamp.toNat ∧
      s.segcnt = 0xFFFFFFFF) ∧
    (t.fcode = 7 ↔ ∃ data, u = .write 0x24 data ∧ s.sptr.toNat = s.nsamp.toNat) ∧
    t.fcode.toNat ≤ 7 ∧
    (t.fcode ≠ 0 → ∃ addr w, u = .write addr w ∧ t.finfo = w) ∧
    (t.fcode = 0 → s.finfo = 0 → t.finfo = 0)

/-- R219: contract faults are precise. The state after is the state before plus FCODE and FINFO, the answer is ERR, and
nothing is saved anywhere else. -/
def Obligations.ContractFaultIsPrecise : Prop :=
  ∀ (s t : State) (u : Txn) (rest : List Txn), s.pending = u :: rest → s.fcode = 0 → step s = .next t →
    t.fcode ≠ 0 →
    t = { s with
      pending := rest, beRequests := [], answer := some .err, fcode := t.fcode, finfo := t.finfo } ∧
    1 ≤ t.fcode.toNat ∧ t.fcode.toNat ≤ 7 ∧ faultOutput t = true

/-- R222, one step: while faulted every write is answered ERR and changes nothing; a read works as usual, so it answers what
it answers in the same state unfaulted (but for STATUS) and changes nothing; the backend is not called; FCODE and FINFO keep
their values. -/
def Obligations.BehaviourWhileFaulted : Prop :=
  ∀ (s : State) (rest : List Txn), s.fcode ≠ 0 →
    (∀ (addr : PortAddr) (data : Word), s.pending = .write addr data :: rest →
      step s = .next { s with pending := rest, beRequests := [], answer := some .err }) ∧
    (∀ addr : PortAddr, s.pending = .read addr :: rest →
      ∃ t u, step s = .next t ∧ step { s with fcode := 0 } = .next u ∧ arch t = arch s ∧ t.beRequests = [] ∧
        (addr ≠ 0x0C → t.answer = u.answer) ∧ (addr = 0x0C → t.answer = some (.okData (statusWord s))))

/-- R220, R222: the Faulted state is absorbing. Over any number of steps in which no reset is asserted, the architectural
state stays what it was when the fault was entered. -/
def Obligations.FaultedStateIsAbsorbing : Prop :=
  ∀ (k : Nat) (s t : State), s.fcode ≠ 0 → (∀ u ∈ s.pending, isReset u = false) →
    afterSteps k s = .next t → arch t = arch s ∧ faultOutput t = true

/-! ## Reset (70_reset_and_hazards.md) -/

/-- R245: the scalars become 0, STATUS reads 0, the arrays keep their capacity (their entries are unspecified, so nothing is
said of them), the instance and the waiting transactions are kept; it works in every state, the Faulted one too. -/
def Obligations.ResetReturnsToIdle : Prop :=
  ∀ (s : State) (rest : List Txn), s.pending = .reset :: rest →
    ∃ t, step s = .next t ∧ t.nsamp = 0 ∧ t.fs = 0 ∧ t.argFs = 0 ∧ t.segcnt = 0 ∧ t.sptr = 0 ∧ t.fcode = 0 ∧
      t.finfo = 0 ∧ statusWord t = 0 ∧ phase t = .idle ∧ faultOutput t = false ∧ ArraysFit t ∧
      t.cfg = s.cfg ∧ t.pending = rest

/-- R246, as the model reads it: a write that a reset cuts off is abandoned, and the state is that of a plain reset, whatever
was being written; only the answer is unspecified. The rule speaks of a CMD write; that a write to any address is treated so
is the model's reading (DEDUCED, log 9; U9 and D12 speak of a transaction). That the arrays too are those of the plain reset
is the model's draw numbering (log 3): both resets take the same draw, whose values are free. -/
def Obligations.CutWriteLeavesTheResetState : Prop :=
  ∀ (s : State) (addr : PortAddr) (data : Word) (rest : List Txn), s.pending = .cutWrite addr data :: rest →
    ∃ t a, step { s with pending := .reset :: rest } = .next t ∧ step s = .next { t with answer := a } ∧
      (a = none ∨ a = some .ok ∨ a = some .err)

/-- R48: the scalars of the reset state, read from the state and from STATUS. -/
def Obligations.ResetStateScalars : Prop :=
  State.reset.nsamp = 0 ∧ State.reset.fs = 0 ∧ State.reset.argFs = 0 ∧ State.reset.segcnt = 0 ∧
  State.reset.sptr = 0 ∧ State.reset.fcode = 0 ∧ State.reset.finfo = 0 ∧ statusWord State.reset = 0 ∧
  phase State.reset = .idle ∧ faultOutput State.reset = false ∧ State.reset.cfg.corr2 = 0x4021CC64

/-! ## The whole machine -/

/-- R47: the invariant holds at reset. -/
def Obligations.ResetMeetsTheInvariant : Prop := Inv State.reset

/-- R47: every step keeps the invariant, from every state that meets it. -/
def Obligations.EveryStepKeepsTheInvariant : Prop :=
  ∀ s t : State, Inv s → step s = .next t → Inv t

/-- R28: the transition table, for commands that do not fault. -/
def Obligations.PhaseTransitionTable : Prop :=
  ∀ (i : Instr) (s t : State), exec i s = .next t → t.answer = some .ok →
    match i with
    | .configure _ => phase t = .idle
    | .accumulate => t.segcnt.toNat = s.segcnt.toNat + 1 ∧ phase t = .accumulating (s.segcnt.toNat + 1)
    | .getResult => phase t = .idle
    | .clear => phase t = phase s ∧ t.segcnt = s.segcnt

/-- R39: once configured, the block stays configured until reset. -/
def Obligations.ConfiguredUntilReset : Prop :=
  ∀ (s t : State) (u : Txn) (rest : List Txn), s.pending = u :: rest → isReset u = false → step s = .next t →
    s.nsamp ≠ 0 → t.nsamp ≠ 0

/-- R50: for every state element, what writes it; nothing else does, but reset. -/
def Obligations.WritersOfEachElement : Prop :=
  ∀ (s t : State) (u : Txn) (rest : List Txn), s.pending = u :: rest → isReset u = false → step s = .next t →
    ((t.nsamp ≠ s.nsamp ∨ t.fs ≠ s.fs) → ∃ c : BitVec 16, u = .write 0x08 (0x01000000 ||| c.setWidth 32)) ∧
    (t.argFs ≠ s.argFs → ∃ data, u = .write 0x10 data) ∧
    (t.segcnt ≠ s.segcnt →
      ((∃ c : BitVec 16, u = .write 0x08 (0x01000000 ||| c.setWidth 32)) ∧ t.segcnt = 0) ∨
      (u = .write 0x08 0x02000000 ∧ t.segcnt = s.segcnt + 1) ∨ (u = .write 0x08 0x03000000 ∧ t.segcnt = 0)) ∧
    (∀ i, readBin t i ≠ readBin s i → i < s.nsamp.toNat ∧
      (u = .write 0x08 0x02000000 ∨ (u = .write 0x08 0x03000000 ∧ s.segcnt ≠ 0) ∨ u = .write 0x08 0x04000000)) ∧
    ((t.re ≠ s.re ∨ t.im ≠ s.im) → u = .write 0x08 0x02000000) ∧
    (∀ k, readSamp t k ≠ readSamp s k → k = s.sptr.toNat ∧ ∃ data, u = .write 0x24 data) ∧
    (t.sptr ≠ s.sptr →
      ((∃ data, u = .write 0x24 data) ∧ t.sptr = s.sptr + 1) ∨ (u = .write 0x08 0x02000000 ∧ t.sptr = 0) ∨
      ((∃ c : BitVec 16, u = .write 0x08 (0x01000000 ||| c.setWidth 32)) ∧ t.sptr = 0)) ∧
    ((t.fcode ≠ s.fcode ∨ t.finfo ≠ s.finfo) → s.fcode = 0 ∧ t.fcode ≠ 0)

/-! ## Binary32 (00_scope.md R14) -/

/-- R14: `rnd32` gives a nearest binary32 value, and between two equally near ones the one whose fraction is even. -/
def Obligations.RoundingIsToNearestEven : Prop :=
  ∀ (num den : Nat) (q : Word), 0 < den → isFinite (rnd32 false num den) = true →
    isFinite q = true → signBit q = false →
    let r := rnd32 false num den
    let err := fun p : Word => ((num * 2 ^ 149 : Int) - scaled p * den).natAbs
    err r ≤ err q ∧ (err r = err q → r ≠ q → fracField r % 2 = 0)

/-- R14: a value that is a binary32 number rounds to itself, its sign kept. -/
def Obligations.RoundingKeepsRepresentable : Prop :=
  ∀ p : Word, isFinite p = true → rnd32 (signBit p) (scaled p) (2 ^ 149) = p

/-- R14: `rnd32` gives infinity exactly from 2^128 - 2^103 on, and is never a NaN. -/
def Obligations.OverflowThreshold : Prop :=
  ∀ (sign : Bool) (num den : Nat), 0 < den →
    (isInf (rnd32 sign num den) = true ↔ (2 ^ 128 - 2 ^ 103) * den ≤ num) ∧
    isNaN (rnd32 sign num den) = false ∧ signBit (rnd32 sign num den) = sign

/-- R14: `cvt_u32` is exact below 2^24, positive and finite for every 32-bit count from 1, and rounds the spec's examples as
it says. -/
def Obligations.ConversionOfCounts : Prop :=
  (∀ n : Nat, n < 2 ^ 24 → isFinite (f32OfNat n) = true ∧ scaled (f32OfNat n) = n * 2 ^ 149) ∧
  (∀ n : Nat, 1 ≤ n → n < 2 ^ 32 →
    isFinite (f32OfNat n) = true ∧ signBit (f32OfNat n) = false ∧ 2 ^ 149 ≤ scaled (f32OfNat n)) ∧
  f32OfNat 16777217 = 0x4B800000 ∧ f32OfNat 4294967295 = 0x4F800000

/-- R14: the special cases of the primitives, for every NaN pattern drawn. -/
def Obligations.SpecialValuesOfThePrimitives : Prop :=
  ∀ nan a b : Word, isNaN nan = true →
    ((isNaN a = true ∨ isNaN b = true) →
      isNaN (f32Mul nan a b) = true ∧ isNaN (f32Div nan a b) = true ∧ isNaN (f32Add nan a b) = true) ∧
    (isZero a = true → isInf b = true → isNaN (f32Mul nan a b) = true) ∧
    (isZero a = true → isZero b = true → isNaN (f32Div nan a b) = true) ∧
    (isInf a = true → isInf b = true → isNaN (f32Div nan a b) = true) ∧
    (isFinite a = true → isZero a = false → isZero b = true →
      isInf (f32Div nan a b) = true ∧ signBit (f32Div nan a b) = (signBit a ^^ signBit b)) ∧
    (f32Add nan 0x00000000 0x00000000 = 0x00000000) ∧
    (isNaN (f32Add nan 0x7F800000 0xFF800000) = true) ∧
    (isFinite a = true → f32Add nan a (a ^^^ 0x80000000) = 0x00000000)

/-- U4: a drawn NaN pattern is a NaN, and every NaN pattern can be drawn. -/
def Obligations.DrawnPatternsAreTheNaNs : Prop :=
  (∀ d i op, isNaN (drawnNaN d i op) = true) ∧ (∀ p : Word, isNaN p = true → ∃ bits, nanPattern bits = p)

/-- R205, R206: the reference backend has BE-zero, BE-nonneg, BE-even and BE-homog. The reading of "up to overflow and
underflow" in BE-homog is the model's (log 26), and so is what RefBE gives where the spec does not define it (log 25). -/
def Obligations.ReferenceBackendProperties : Prop :=
  BeZero refBackend ∧ BeNonneg refBackend ∧ BeEven refBackend ∧ BeHomog refBackend
end

