-- ==== Sys2Proof/Laws/RegisterFile.lean ====
section
/-! SUPPORT. What a loop over a register file does: the entries below its bound, those above, and loops over loops. -/

namespace Sys2Proof.Machine

@[simp] theorem mapBelow_length {α : Type} (n : Nat) (f : Nat → α → α) (i : Nat) (l : List α) :
    (mapBelow n f i l).length = l.length := by
  induction l generalizing i with
  | nil => rfl
  | cons x xs ih => simp [mapBelow, ih]

/-- Entry `k` after a loop, if there is one. -/
theorem mapBelow_getElem? {α : Type} (n : Nat) (f : Nat → α → α) (i k : Nat) (l : List α) :
    (mapBelow n f i l)[k]? = l[k]?.map (fun x => if i + k < n then f (i + k) x else x) := by
  induction l generalizing i k with
  | nil => simp [mapBelow]
  | cons x xs ih =>
    cases k with
    | zero => simp [mapBelow]
    | succ k => simp [mapBelow, ih, Nat.add_assoc, Nat.add_comm 1]

/-- Entry `k` after a loop. -/
theorem mapBelow_getElem {α : Type} (n : Nat) (f : Nat → α → α) (k : Nat) (l : List α)
    (h : k < (mapBelow n f 0 l).length) :
    (mapBelow n f 0 l)[k] = if k < n then f k (l[k]'(by simpa using h)) else l[k]'(by simpa using h) := by
  have hl : k < l.length := by simpa using h
  have := mapBelow_getElem? n f 0 k l
  rw [List.getElem?_eq_getElem h, List.getElem?_eq_getElem hl] at this
  simpa using this

/-- An entry below `n` becomes `f i x`. -/
theorem mapBelow_below {α : Type} {n : Nat} {f : Nat → α → α} {l : List α} {k : Nat} {d : α}
    (hk : k < n) (hl : k < l.length) : (mapBelow n f 0 l).getD k d = f k (l.getD k d) := by
  simp [List.getD, mapBelow_getElem, hk, hl]

/-- An entry at or above `n` keeps what it holds. -/
theorem mapBelow_above {α : Type} {n : Nat} {f : Nat → α → α} {l : List α} {k : Nat} {d : α}
    (hk : n ≤ k) : (mapBelow n f 0 l).getD k d = l.getD k d := by
  have : ¬ k < n := by omega
  simp only [List.getD, mapBelow_getElem?, Nat.zero_add, this, if_false]
  cases l[k]? <;> rfl

/-- With `n = 0` a loop runs nothing. -/
theorem mapBelow_none {α : Type} (f : Nat → α → α) (i : Nat) (l : List α) : mapBelow 0 f i l = l := by
  induction l generalizing i with
  | nil => rfl
  | cons x xs ih => simp [mapBelow, ih]

/-- Two loops that write the same values leave the same register file. -/
theorem mapBelow_congr {α : Type} {n : Nat} {f g : Nat → α → α} {l : List α}
    (h : ∀ k x, k < n → l[k]? = some x → f k x = g k x) : mapBelow n f 0 l = mapBelow n g 0 l := by
  apply List.ext_getElem?
  intro k
  simp only [mapBelow_getElem?, Nat.zero_add]
  cases hk : l[k]? with
  | none => rfl
  | some x =>
    by_cases hn : k < n
    · simp [hn, h k x hn hk]
    · simp [hn]

/-- A loop after a loop over the same range is one loop. -/
theorem mapBelow_mapBelow {α : Type} (n : Nat) (f g : Nat → α → α) (i : Nat) (l : List α) :
    mapBelow n g i (mapBelow n f i l) = mapBelow n (fun k x => g k (f k x)) i l := by
  induction l generalizing i with
  | nil => rfl
  | cons x xs ih => by_cases h : i < n <;> simp [mapBelow, ih, h]

/-- A loop that writes back what is there changes nothing. -/
theorem mapBelow_id {α : Type} {n : Nat} {f : Nat → α → α} {l : List α}
    (h : ∀ k x, k < n → l[k]? = some x → f k x = x) : mapBelow n f 0 l = l := by
  apply List.ext_getElem?
  intro k
  simp only [mapBelow_getElem?, Nat.zero_add]
  cases hk : l[k]? with
  | none => rfl
  | some x =>
    by_cases hn : k < n
    · simp [hn, h k x hn hk]
    · simp [hn]


@[simp] theorem clearBins_length (n : Nat) (bins : List Word) : (clearBins n bins).length = bins.length := by
  simp [clearBins]

theorem clearBins_below {n k : Nat} {bins : List Word} (hk : k < n) (hl : k < bins.length) :
    (clearBins n bins).getD k 0 = posZero := by
  simpa [clearBins] using mapBelow_below (f := fun _ _ => posZero) hk hl

theorem clearBins_above {n k : Nat} {bins : List Word} (hk : n ≤ k) :
    (clearBins n bins).getD k 0 = bins.getD k 0 := mapBelow_above hk

theorem clearBins_idem (n : Nat) (bins : List Word) : clearBins n (clearBins n bins) = clearBins n bins := by
  simp [clearBins, mapBelow_mapBelow]

/-- The first `n` entries after a loop over them. -/
theorem mapBelow_take {α : Type} {n : Nat} {f : Nat → α → α} {l : List α} (hl : n ≤ l.length) (d : α) :
    (mapBelow n f 0 l).take n = (List.range n).map (fun k => f k (l.getD k d)) := by
  apply List.ext_getElem?
  intro k
  by_cases hk : k < n
  · have : k < l.length := by omega
    simp [mapBelow_getElem, hk, this, List.getD]
  · simp [hk]

end Sys2Proof.Machine
end

