-- ==== Sys2Proof/Laws/State.lean ====
section
/-! SUPPORT. One lemma for each field of State under each of the model's updates, true by rfl: what the update writes, and
what it leaves. With them no proof unfolds an update. -/

namespace Sys2Proof.Machine

@[simp] theorem raiseFault_cfg (c : FaultCause) (w : Word) (s : State) : (raiseFault c w s).cfg = s.cfg := rfl
@[simp] theorem raiseFault_nsamp (c : FaultCause) (w : Word) (s : State) : (raiseFault c w s).nsamp = s.nsamp := rfl
@[simp] theorem raiseFault_fs (c : FaultCause) (w : Word) (s : State) : (raiseFault c w s).fs = s.fs := rfl
@[simp] theorem raiseFault_argFs (c : FaultCause) (w : Word) (s : State) : (raiseFault c w s).argFs = s.argFs := rfl
@[simp] theorem raiseFault_segcnt (c : FaultCause) (w : Word) (s : State) : (raiseFault c w s).segcnt =
    s.segcnt := rfl
@[simp] theorem raiseFault_bin (c : FaultCause) (w : Word) (s : State) : (raiseFault c w s).bin = s.bin := rfl
@[simp] theorem raiseFault_re (c : FaultCause) (w : Word) (s : State) : (raiseFault c w s).re = s.re := rfl
@[simp] theorem raiseFault_im (c : FaultCause) (w : Word) (s : State) : (raiseFault c w s).im = s.im := rfl
@[simp] theorem raiseFault_samp (c : FaultCause) (w : Word) (s : State) : (raiseFault c w s).samp = s.samp := rfl
@[simp] theorem raiseFault_sptr (c : FaultCause) (w : Word) (s : State) : (raiseFault c w s).sptr = s.sptr := rfl
@[simp] theorem raiseFault_fcode (c : FaultCause) (w : Word) (s : State) : (raiseFault c w s).fcode =
    faultCode c := rfl
@[simp] theorem raiseFault_finfo (c : FaultCause) (w : Word) (s : State) : (raiseFault c w s).finfo = w := rfl
@[simp] theorem raiseFault_pending (c : FaultCause) (w : Word) (s : State) : (raiseFault c w s).pending =
    s.pending := rfl
@[simp] theorem raiseFault_answer (c : FaultCause) (w : Word) (s : State) : (raiseFault c w s).answer =
    some .err := rfl
@[simp] theorem raiseFault_beRequests (c : FaultCause) (w : Word) (s : State) : (raiseFault c w s).beRequests =
    s.beRequests := rfl
@[simp] theorem raiseFault_draws (c : FaultCause) (w : Word) (s : State) : (raiseFault c w s).draws = s.draws := rfl
@[simp] theorem raiseFault_maxn (c : FaultCause) (w : Word) (s : State) : (raiseFault c w s).maxn = s.maxn := rfl
@[simp] theorem raiseFault_num (c : FaultCause) (w : Word) (s : State) : (raiseFault c w s).num = s.num := rfl

@[simp] theorem answerOk_cfg (s : State) : (answerOk s).cfg = s.cfg := rfl
@[simp] theorem answerOk_nsamp (s : State) : (answerOk s).nsamp = s.nsamp := rfl
@[simp] theorem answerOk_fs (s : State) : (answerOk s).fs = s.fs := rfl
@[simp] theorem answerOk_argFs (s : State) : (answerOk s).argFs = s.argFs := rfl
@[simp] theorem answerOk_segcnt (s : State) : (answerOk s).segcnt = s.segcnt := rfl
@[simp] theorem answerOk_bin (s : State) : (answerOk s).bin = s.bin := rfl
@[simp] theorem answerOk_re (s : State) : (answerOk s).re = s.re := rfl
@[simp] theorem answerOk_im (s : State) : (answerOk s).im = s.im := rfl
@[simp] theorem answerOk_samp (s : State) : (answerOk s).samp = s.samp := rfl
@[simp] theorem answerOk_sptr (s : State) : (answerOk s).sptr = s.sptr := rfl
@[simp] theorem answerOk_fcode (s : State) : (answerOk s).fcode = s.fcode := rfl
@[simp] theorem answerOk_finfo (s : State) : (answerOk s).finfo = s.finfo := rfl
@[simp] theorem answerOk_pending (s : State) : (answerOk s).pending = s.pending := rfl
@[simp] theorem answerOk_answer (s : State) : (answerOk s).answer = some .ok := rfl
@[simp] theorem answerOk_beRequests (s : State) : (answerOk s).beRequests = s.beRequests := rfl
@[simp] theorem answerOk_draws (s : State) : (answerOk s).draws = s.draws := rfl
@[simp] theorem answerOk_maxn (s : State) : (answerOk s).maxn = s.maxn := rfl
@[simp] theorem answerOk_num (s : State) : (answerOk s).num = s.num := rfl

@[simp] theorem busError_cfg (s : State) : (busError s).cfg = s.cfg := rfl
@[simp] theorem busError_nsamp (s : State) : (busError s).nsamp = s.nsamp := rfl
@[simp] theorem busError_fs (s : State) : (busError s).fs = s.fs := rfl
@[simp] theorem busError_argFs (s : State) : (busError s).argFs = s.argFs := rfl
@[simp] theorem busError_segcnt (s : State) : (busError s).segcnt = s.segcnt := rfl
@[simp] theorem busError_bin (s : State) : (busError s).bin = s.bin := rfl
@[simp] theorem busError_re (s : State) : (busError s).re = s.re := rfl
@[simp] theorem busError_im (s : State) : (busError s).im = s.im := rfl
@[simp] theorem busError_samp (s : State) : (busError s).samp = s.samp := rfl
@[simp] theorem busError_sptr (s : State) : (busError s).sptr = s.sptr := rfl
@[simp] theorem busError_fcode (s : State) : (busError s).fcode = s.fcode := rfl
@[simp] theorem busError_finfo (s : State) : (busError s).finfo = s.finfo := rfl
@[simp] theorem busError_pending (s : State) : (busError s).pending = s.pending := rfl
@[simp] theorem busError_answer (s : State) : (busError s).answer = some .err := rfl
@[simp] theorem busError_beRequests (s : State) : (busError s).beRequests = s.beRequests := rfl
@[simp] theorem busError_draws (s : State) : (busError s).draws = s.draws := rfl
@[simp] theorem busError_maxn (s : State) : (busError s).maxn = s.maxn := rfl
@[simp] theorem busError_num (s : State) : (busError s).num = s.num := rfl

@[simp] theorem accept_cfg (r : List Txn) (s : State) : (accept r s).cfg = s.cfg := rfl
@[simp] theorem accept_nsamp (r : List Txn) (s : State) : (accept r s).nsamp = s.nsamp := rfl
@[simp] theorem accept_fs (r : List Txn) (s : State) : (accept r s).fs = s.fs := rfl
@[simp] theorem accept_argFs (r : List Txn) (s : State) : (accept r s).argFs = s.argFs := rfl
@[simp] theorem accept_segcnt (r : List Txn) (s : State) : (accept r s).segcnt = s.segcnt := rfl
@[simp] theorem accept_bin (r : List Txn) (s : State) : (accept r s).bin = s.bin := rfl
@[simp] theorem accept_re (r : List Txn) (s : State) : (accept r s).re = s.re := rfl
@[simp] theorem accept_im (r : List Txn) (s : State) : (accept r s).im = s.im := rfl
@[simp] theorem accept_samp (r : List Txn) (s : State) : (accept r s).samp = s.samp := rfl
@[simp] theorem accept_sptr (r : List Txn) (s : State) : (accept r s).sptr = s.sptr := rfl
@[simp] theorem accept_fcode (r : List Txn) (s : State) : (accept r s).fcode = s.fcode := rfl
@[simp] theorem accept_finfo (r : List Txn) (s : State) : (accept r s).finfo = s.finfo := rfl
@[simp] theorem accept_pending (r : List Txn) (s : State) : (accept r s).pending = r := rfl
@[simp] theorem accept_answer (r : List Txn) (s : State) : (accept r s).answer = none := rfl
@[simp] theorem accept_beRequests (r : List Txn) (s : State) : (accept r s).beRequests = [] := rfl
@[simp] theorem accept_draws (r : List Txn) (s : State) : (accept r s).draws = s.draws := rfl
@[simp] theorem accept_maxn (r : List Txn) (s : State) : (accept r s).maxn = s.maxn := rfl
@[simp] theorem accept_num (r : List Txn) (s : State) : (accept r s).num = s.num := rfl

@[simp] theorem resetBlock_cfg (s : State) : (resetBlock s).cfg = s.cfg := rfl
@[simp] theorem resetBlock_nsamp (s : State) : (resetBlock s).nsamp = 0 := rfl
@[simp] theorem resetBlock_fs (s : State) : (resetBlock s).fs = 0 := rfl
@[simp] theorem resetBlock_argFs (s : State) : (resetBlock s).argFs = 0 := rfl
@[simp] theorem resetBlock_segcnt (s : State) : (resetBlock s).segcnt = 0 := rfl
@[simp] theorem resetBlock_bin (s : State) : (resetBlock s).bin =
    (List.range s.maxn).map (Config.resetBin s.draws) := rfl
@[simp] theorem resetBlock_re (s : State) : (resetBlock s).re =
    (List.range s.maxn).map (Config.resetRe s.draws) := rfl
@[simp] theorem resetBlock_im (s : State) : (resetBlock s).im =
    (List.range s.maxn).map (Config.resetIm s.draws) := rfl
@[simp] theorem resetBlock_samp (s : State) : (resetBlock s).samp =
    (List.range s.maxn).map (Config.resetSamp s.draws) := rfl
@[simp] theorem resetBlock_sptr (s : State) : (resetBlock s).sptr = 0 := rfl
@[simp] theorem resetBlock_fcode (s : State) : (resetBlock s).fcode = 0 := rfl
@[simp] theorem resetBlock_finfo (s : State) : (resetBlock s).finfo = 0 := rfl
@[simp] theorem resetBlock_pending (s : State) : (resetBlock s).pending = s.pending := rfl
@[simp] theorem resetBlock_answer (s : State) : (resetBlock s).answer = none := rfl
@[simp] theorem resetBlock_beRequests (s : State) : (resetBlock s).beRequests = [] := rfl
@[simp] theorem resetBlock_draws (s : State) : (resetBlock s).draws = s.draws + 1 := rfl
@[simp] theorem resetBlock_maxn (s : State) : (resetBlock s).maxn = s.maxn := rfl
@[simp] theorem resetBlock_num (s : State) : (resetBlock s).num = s.num := rfl

@[simp] theorem resetCutting_cfg (s : State) : (resetCutting s).cfg = s.cfg := rfl
@[simp] theorem resetCutting_nsamp (s : State) : (resetCutting s).nsamp = 0 := rfl
@[simp] theorem resetCutting_fs (s : State) : (resetCutting s).fs = 0 := rfl
@[simp] theorem resetCutting_argFs (s : State) : (resetCutting s).argFs = 0 := rfl
@[simp] theorem resetCutting_segcnt (s : State) : (resetCutting s).segcnt = 0 := rfl
@[simp] theorem resetCutting_bin (s : State) : (resetCutting s).bin =
    (List.range s.maxn).map (Config.resetBin s.draws) := rfl
@[simp] theorem resetCutting_re (s : State) : (resetCutting s).re =
    (List.range s.maxn).map (Config.resetRe s.draws) := rfl
@[simp] theorem resetCutting_im (s : State) : (resetCutting s).im =
    (List.range s.maxn).map (Config.resetIm s.draws) := rfl
@[simp] theorem resetCutting_samp (s : State) : (resetCutting s).samp =
    (List.range s.maxn).map (Config.resetSamp s.draws) := rfl
@[simp] theorem resetCutting_sptr (s : State) : (resetCutting s).sptr = 0 := rfl
@[simp] theorem resetCutting_fcode (s : State) : (resetCutting s).fcode = 0 := rfl
@[simp] theorem resetCutting_finfo (s : State) : (resetCutting s).finfo = 0 := rfl
@[simp] theorem resetCutting_pending (s : State) : (resetCutting s).pending = s.pending := rfl
@[simp] theorem resetCutting_answer (s : State) : (resetCutting s).answer = cutAnswerOf s.draws := rfl
@[simp] theorem resetCutting_beRequests (s : State) : (resetCutting s).beRequests = [] := rfl
@[simp] theorem resetCutting_draws (s : State) : (resetCutting s).draws = s.draws + 1 := rfl
@[simp] theorem resetCutting_maxn (s : State) : (resetCutting s).maxn = s.maxn := rfl
@[simp] theorem resetCutting_num (s : State) : (resetCutting s).num = s.num := rfl

@[simp] theorem applyConfig_cfg (c : BitVec 16) (s : State) : (applyConfig c s).cfg = s.cfg := rfl
@[simp] theorem applyConfig_nsamp (c : BitVec 16) (s : State) : (applyConfig c s).nsamp = c := rfl
@[simp] theorem applyConfig_fs (c : BitVec 16) (s : State) : (applyConfig c s).fs = s.argFs := rfl
@[simp] theorem applyConfig_argFs (c : BitVec 16) (s : State) : (applyConfig c s).argFs = s.argFs := rfl
@[simp] theorem applyConfig_segcnt (c : BitVec 16) (s : State) : (applyConfig c s).segcnt = 0 := rfl
@[simp] theorem applyConfig_bin (c : BitVec 16) (s : State) : (applyConfig c s).bin = s.bin := rfl
@[simp] theorem applyConfig_re (c : BitVec 16) (s : State) : (applyConfig c s).re = s.re := rfl
@[simp] theorem applyConfig_im (c : BitVec 16) (s : State) : (applyConfig c s).im = s.im := rfl
@[simp] theorem applyConfig_samp (c : BitVec 16) (s : State) : (applyConfig c s).samp = s.samp := rfl
@[simp] theorem applyConfig_sptr (c : BitVec 16) (s : State) : (applyConfig c s).sptr = 0 := rfl
@[simp] theorem applyConfig_fcode (c : BitVec 16) (s : State) : (applyConfig c s).fcode = s.fcode := rfl
@[simp] theorem applyConfig_finfo (c : BitVec 16) (s : State) : (applyConfig c s).finfo = s.finfo := rfl
@[simp] theorem applyConfig_pending (c : BitVec 16) (s : State) : (applyConfig c s).pending = s.pending := rfl
@[simp] theorem applyConfig_answer (c : BitVec 16) (s : State) : (applyConfig c s).answer = s.answer := rfl
@[simp] theorem applyConfig_beRequests (c : BitVec 16) (s : State) : (applyConfig c s).beRequests =
    s.beRequests := rfl
@[simp] theorem applyConfig_draws (c : BitVec 16) (s : State) : (applyConfig c s).draws = s.draws := rfl
@[simp] theorem applyConfig_maxn (c : BitVec 16) (s : State) : (applyConfig c s).maxn = s.maxn := rfl
@[simp] theorem applyConfig_num (c : BitVec 16) (s : State) : (applyConfig c s).num = s.num := rfl

@[simp] theorem lazyClear_cfg (s : State) : (lazyClear s).cfg = s.cfg := rfl
@[simp] theorem lazyClear_nsamp (s : State) : (lazyClear s).nsamp = s.nsamp := rfl
@[simp] theorem lazyClear_fs (s : State) : (lazyClear s).fs = s.fs := rfl
@[simp] theorem lazyClear_argFs (s : State) : (lazyClear s).argFs = s.argFs := rfl
@[simp] theorem lazyClear_segcnt (s : State) : (lazyClear s).segcnt = s.segcnt := rfl
@[simp] theorem lazyClear_bin (s : State) : (lazyClear s).bin =
    if s.segcnt = 0 then clearBins (segLen s) s.bin else s.bin := rfl
@[simp] theorem lazyClear_re (s : State) : (lazyClear s).re = s.re := rfl
@[simp] theorem lazyClear_im (s : State) : (lazyClear s).im = s.im := rfl
@[simp] theorem lazyClear_samp (s : State) : (lazyClear s).samp = s.samp := rfl
@[simp] theorem lazyClear_sptr (s : State) : (lazyClear s).sptr = s.sptr := rfl
@[simp] theorem lazyClear_fcode (s : State) : (lazyClear s).fcode = s.fcode := rfl
@[simp] theorem lazyClear_finfo (s : State) : (lazyClear s).finfo = s.finfo := rfl
@[simp] theorem lazyClear_pending (s : State) : (lazyClear s).pending = s.pending := rfl
@[simp] theorem lazyClear_answer (s : State) : (lazyClear s).answer = s.answer := rfl
@[simp] theorem lazyClear_beRequests (s : State) : (lazyClear s).beRequests = s.beRequests := rfl
@[simp] theorem lazyClear_draws (s : State) : (lazyClear s).draws = s.draws := rfl
@[simp] theorem lazyClear_maxn (s : State) : (lazyClear s).maxn = s.maxn := rfl
@[simp] theorem lazyClear_num (s : State) : (lazyClear s).num = s.num := rfl

@[simp] theorem removeMean_cfg (s : State) : (removeMean s).cfg = s.cfg := rfl
@[simp] theorem removeMean_nsamp (s : State) : (removeMean s).nsamp = s.nsamp := rfl
@[simp] theorem removeMean_fs (s : State) : (removeMean s).fs = s.fs := rfl
@[simp] theorem removeMean_argFs (s : State) : (removeMean s).argFs = s.argFs := rfl
@[simp] theorem removeMean_segcnt (s : State) : (removeMean s).segcnt = s.segcnt := rfl
@[simp] theorem removeMean_bin (s : State) : (removeMean s).bin = s.bin := rfl
@[simp] theorem removeMean_re (s : State) : (removeMean s).re =
    mapBelow (segLen s) (fun k _ => centred s k) 0 s.re := rfl
@[simp] theorem removeMean_im (s : State) : (removeMean s).im = mapBelow (segLen s) (fun _ _ => posZero) 0 s.im := rfl
@[simp] theorem removeMean_samp (s : State) : (removeMean s).samp = s.samp := rfl
@[simp] theorem removeMean_sptr (s : State) : (removeMean s).sptr = s.sptr := rfl
@[simp] theorem removeMean_fcode (s : State) : (removeMean s).fcode = s.fcode := rfl
@[simp] theorem removeMean_finfo (s : State) : (removeMean s).finfo = s.finfo := rfl
@[simp] theorem removeMean_pending (s : State) : (removeMean s).pending = s.pending := rfl
@[simp] theorem removeMean_answer (s : State) : (removeMean s).answer = s.answer := rfl
@[simp] theorem removeMean_beRequests (s : State) : (removeMean s).beRequests = s.beRequests := rfl
@[simp] theorem removeMean_draws (s : State) : (removeMean s).draws = s.draws := rfl
@[simp] theorem removeMean_maxn (s : State) : (removeMean s).maxn = s.maxn := rfl
@[simp] theorem removeMean_num (s : State) : (removeMean s).num = s.num := rfl

@[simp] theorem callBackend_cfg (s : State) : (callBackend s).cfg = s.cfg := rfl
@[simp] theorem callBackend_nsamp (s : State) : (callBackend s).nsamp = s.nsamp := rfl
@[simp] theorem callBackend_fs (s : State) : (callBackend s).fs = s.fs := rfl
@[simp] theorem callBackend_argFs (s : State) : (callBackend s).argFs = s.argFs := rfl
@[simp] theorem callBackend_segcnt (s : State) : (callBackend s).segcnt = s.segcnt := rfl
@[simp] theorem callBackend_bin (s : State) : (callBackend s).bin = s.bin := rfl
@[simp] theorem callBackend_re (s : State) : (callBackend s).re =
    mapBelow (segLen s) (fun k _ => (backendResult s).re.getD k 0) 0 s.re := rfl
@[simp] theorem callBackend_im (s : State) : (callBackend s).im =
    mapBelow (segLen s) (fun k _ => (backendResult s).im.getD k 0) 0 s.im := rfl
@[simp] theorem callBackend_samp (s : State) : (callBackend s).samp = s.samp := rfl
@[simp] theorem callBackend_sptr (s : State) : (callBackend s).sptr = s.sptr := rfl
@[simp] theorem callBackend_fcode (s : State) : (callBackend s).fcode = s.fcode := rfl
@[simp] theorem callBackend_finfo (s : State) : (callBackend s).finfo = s.finfo := rfl
@[simp] theorem callBackend_pending (s : State) : (callBackend s).pending = s.pending := rfl
@[simp] theorem callBackend_answer (s : State) : (callBackend s).answer = s.answer := rfl
@[simp] theorem callBackend_beRequests (s : State) : (callBackend s).beRequests = backendRequests s.nsamp := rfl
@[simp] theorem callBackend_draws (s : State) : (callBackend s).draws = s.draws := rfl
@[simp] theorem callBackend_maxn (s : State) : (callBackend s).maxn = s.maxn := rfl
@[simp] theorem callBackend_num (s : State) : (callBackend s).num = s.num := rfl

@[simp] theorem addPower_cfg (s : State) : (addPower s).cfg = s.cfg := rfl
@[simp] theorem addPower_nsamp (s : State) : (addPower s).nsamp = s.nsamp := rfl
@[simp] theorem addPower_fs (s : State) : (addPower s).fs = s.fs := rfl
@[simp] theorem addPower_argFs (s : State) : (addPower s).argFs = s.argFs := rfl
@[simp] theorem addPower_segcnt (s : State) : (addPower s).segcnt = s.segcnt := rfl
@[simp] theorem addPower_bin (s : State) : (addPower s).bin =
    mapBelow (segLen s) (fun i old => addToBin s.num s.draws i old
        (binPower s.num s.draws (freqDivisor s) (countDivisor s) i (readRe s i))) 0 s.bin := rfl
@[simp] theorem addPower_re (s : State) : (addPower s).re = s.re := rfl
@[simp] theorem addPower_im (s : State) : (addPower s).im = s.im := rfl
@[simp] theorem addPower_samp (s : State) : (addPower s).samp = s.samp := rfl
@[simp] theorem addPower_sptr (s : State) : (addPower s).sptr = s.sptr := rfl
@[simp] theorem addPower_fcode (s : State) : (addPower s).fcode = s.fcode := rfl
@[simp] theorem addPower_finfo (s : State) : (addPower s).finfo = s.finfo := rfl
@[simp] theorem addPower_pending (s : State) : (addPower s).pending = s.pending := rfl
@[simp] theorem addPower_answer (s : State) : (addPower s).answer = s.answer := rfl
@[simp] theorem addPower_beRequests (s : State) : (addPower s).beRequests = s.beRequests := rfl
@[simp] theorem addPower_draws (s : State) : (addPower s).draws = s.draws := rfl
@[simp] theorem addPower_maxn (s : State) : (addPower s).maxn = s.maxn := rfl
@[simp] theorem addPower_num (s : State) : (addPower s).num = s.num := rfl

@[simp] theorem countSegment_cfg (s : State) : (countSegment s).cfg = s.cfg := rfl
@[simp] theorem countSegment_nsamp (s : State) : (countSegment s).nsamp = s.nsamp := rfl
@[simp] theorem countSegment_fs (s : State) : (countSegment s).fs = s.fs := rfl
@[simp] theorem countSegment_argFs (s : State) : (countSegment s).argFs = s.argFs := rfl
@[simp] theorem countSegment_segcnt (s : State) : (countSegment s).segcnt = s.segcnt + 1 := rfl
@[simp] theorem countSegment_bin (s : State) : (countSegment s).bin = s.bin := rfl
@[simp] theorem countSegment_re (s : State) : (countSegment s).re = s.re := rfl
@[simp] theorem countSegment_im (s : State) : (countSegment s).im = s.im := rfl
@[simp] theorem countSegment_samp (s : State) : (countSegment s).samp = s.samp := rfl
@[simp] theorem countSegment_sptr (s : State) : (countSegment s).sptr = 0 := rfl
@[simp] theorem countSegment_fcode (s : State) : (countSegment s).fcode = s.fcode := rfl
@[simp] theorem countSegment_finfo (s : State) : (countSegment s).finfo = s.finfo := rfl
@[simp] theorem countSegment_pending (s : State) : (countSegment s).pending = s.pending := rfl
@[simp] theorem countSegment_answer (s : State) : (countSegment s).answer = s.answer := rfl
@[simp] theorem countSegment_beRequests (s : State) : (countSegment s).beRequests = s.beRequests := rfl
@[simp] theorem countSegment_draws (s : State) : (countSegment s).draws = s.draws + 1 := rfl
@[simp] theorem countSegment_maxn (s : State) : (countSegment s).maxn = s.maxn := rfl
@[simp] theorem countSegment_num (s : State) : (countSegment s).num = s.num := rfl

@[simp] theorem finalizeBins_cfg (s : State) : (finalizeBins s).cfg = s.cfg := rfl
@[simp] theorem finalizeBins_nsamp (s : State) : (finalizeBins s).nsamp = s.nsamp := rfl
@[simp] theorem finalizeBins_fs (s : State) : (finalizeBins s).fs = s.fs := rfl
@[simp] theorem finalizeBins_argFs (s : State) : (finalizeBins s).argFs = s.argFs := rfl
@[simp] theorem finalizeBins_segcnt (s : State) : (finalizeBins s).segcnt = 0 := rfl
@[simp] theorem finalizeBins_bin (s : State) : (finalizeBins s).bin =
    mapBelow s.nsamp.toNat
        (fun i x => finalBin s.num s.draws (segmentDivisor s) s.cfg.corr2 i x) 0 s.bin := rfl
@[simp] theorem finalizeBins_re (s : State) : (finalizeBins s).re = s.re := rfl
@[simp] theorem finalizeBins_im (s : State) : (finalizeBins s).im = s.im := rfl
@[simp] theorem finalizeBins_samp (s : State) : (finalizeBins s).samp = s.samp := rfl
@[simp] theorem finalizeBins_sptr (s : State) : (finalizeBins s).sptr = s.sptr := rfl
@[simp] theorem finalizeBins_fcode (s : State) : (finalizeBins s).fcode = s.fcode := rfl
@[simp] theorem finalizeBins_finfo (s : State) : (finalizeBins s).finfo = s.finfo := rfl
@[simp] theorem finalizeBins_pending (s : State) : (finalizeBins s).pending = s.pending := rfl
@[simp] theorem finalizeBins_answer (s : State) : (finalizeBins s).answer = s.answer := rfl
@[simp] theorem finalizeBins_beRequests (s : State) : (finalizeBins s).beRequests = s.beRequests := rfl
@[simp] theorem finalizeBins_draws (s : State) : (finalizeBins s).draws = s.draws + 1 := rfl
@[simp] theorem finalizeBins_maxn (s : State) : (finalizeBins s).maxn = s.maxn := rfl
@[simp] theorem finalizeBins_num (s : State) : (finalizeBins s).num = s.num := rfl

@[simp] theorem setArgFs_cfg (w : Word) (s : State) : (setArgFs w s).cfg = s.cfg := rfl
@[simp] theorem setArgFs_nsamp (w : Word) (s : State) : (setArgFs w s).nsamp = s.nsamp := rfl
@[simp] theorem setArgFs_fs (w : Word) (s : State) : (setArgFs w s).fs = s.fs := rfl
@[simp] theorem setArgFs_argFs (w : Word) (s : State) : (setArgFs w s).argFs = w := rfl
@[simp] theorem setArgFs_segcnt (w : Word) (s : State) : (setArgFs w s).segcnt = s.segcnt := rfl
@[simp] theorem setArgFs_bin (w : Word) (s : State) : (setArgFs w s).bin = s.bin := rfl
@[simp] theorem setArgFs_re (w : Word) (s : State) : (setArgFs w s).re = s.re := rfl
@[simp] theorem setArgFs_im (w : Word) (s : State) : (setArgFs w s).im = s.im := rfl
@[simp] theorem setArgFs_samp (w : Word) (s : State) : (setArgFs w s).samp = s.samp := rfl
@[simp] theorem setArgFs_sptr (w : Word) (s : State) : (setArgFs w s).sptr = s.sptr := rfl
@[simp] theorem setArgFs_fcode (w : Word) (s : State) : (setArgFs w s).fcode = s.fcode := rfl
@[simp] theorem setArgFs_finfo (w : Word) (s : State) : (setArgFs w s).finfo = s.finfo := rfl
@[simp] theorem setArgFs_pending (w : Word) (s : State) : (setArgFs w s).pending = s.pending := rfl
@[simp] theorem setArgFs_answer (w : Word) (s : State) : (setArgFs w s).answer = s.answer := rfl
@[simp] theorem setArgFs_beRequests (w : Word) (s : State) : (setArgFs w s).beRequests = s.beRequests := rfl
@[simp] theorem setArgFs_draws (w : Word) (s : State) : (setArgFs w s).draws = s.draws := rfl
@[simp] theorem setArgFs_maxn (w : Word) (s : State) : (setArgFs w s).maxn = s.maxn := rfl
@[simp] theorem setArgFs_num (w : Word) (s : State) : (setArgFs w s).num = s.num := rfl

@[simp] theorem storeSample_cfg (w : Word) (s : State) : (storeSample w s).cfg = s.cfg := rfl
@[simp] theorem storeSample_nsamp (w : Word) (s : State) : (storeSample w s).nsamp = s.nsamp := rfl
@[simp] theorem storeSample_fs (w : Word) (s : State) : (storeSample w s).fs = s.fs := rfl
@[simp] theorem storeSample_argFs (w : Word) (s : State) : (storeSample w s).argFs = s.argFs := rfl
@[simp] theorem storeSample_segcnt (w : Word) (s : State) : (storeSample w s).segcnt = s.segcnt := rfl
@[simp] theorem storeSample_bin (w : Word) (s : State) : (storeSample w s).bin = s.bin := rfl
@[simp] theorem storeSample_re (w : Word) (s : State) : (storeSample w s).re = s.re := rfl
@[simp] theorem storeSample_im (w : Word) (s : State) : (storeSample w s).im = s.im := rfl
@[simp] theorem storeSample_samp (w : Word) (s : State) : (storeSample w s).samp =
    s.samp.set s.sptr.toNat (sampleOf w) := rfl
@[simp] theorem storeSample_sptr (w : Word) (s : State) : (storeSample w s).sptr = s.sptr + 1 := rfl
@[simp] theorem storeSample_fcode (w : Word) (s : State) : (storeSample w s).fcode = s.fcode := rfl
@[simp] theorem storeSample_finfo (w : Word) (s : State) : (storeSample w s).finfo = s.finfo := rfl
@[simp] theorem storeSample_pending (w : Word) (s : State) : (storeSample w s).pending = s.pending := rfl
@[simp] theorem storeSample_answer (w : Word) (s : State) : (storeSample w s).answer = s.answer := rfl
@[simp] theorem storeSample_beRequests (w : Word) (s : State) : (storeSample w s).beRequests = s.beRequests := rfl
@[simp] theorem storeSample_draws (w : Word) (s : State) : (storeSample w s).draws = s.draws := rfl
@[simp] theorem storeSample_maxn (w : Word) (s : State) : (storeSample w s).maxn = s.maxn := rfl
@[simp] theorem storeSample_num (w : Word) (s : State) : (storeSample w s).num = s.num := rfl

@[simp] theorem hostRead_cfg (a : PortAddr) (s : State) : (hostRead a s).cfg = s.cfg := rfl
@[simp] theorem hostRead_nsamp (a : PortAddr) (s : State) : (hostRead a s).nsamp = s.nsamp := rfl
@[simp] theorem hostRead_fs (a : PortAddr) (s : State) : (hostRead a s).fs = s.fs := rfl
@[simp] theorem hostRead_argFs (a : PortAddr) (s : State) : (hostRead a s).argFs = s.argFs := rfl
@[simp] theorem hostRead_segcnt (a : PortAddr) (s : State) : (hostRead a s).segcnt = s.segcnt := rfl
@[simp] theorem hostRead_bin (a : PortAddr) (s : State) : (hostRead a s).bin = s.bin := rfl
@[simp] theorem hostRead_re (a : PortAddr) (s : State) : (hostRead a s).re = s.re := rfl
@[simp] theorem hostRead_im (a : PortAddr) (s : State) : (hostRead a s).im = s.im := rfl
@[simp] theorem hostRead_samp (a : PortAddr) (s : State) : (hostRead a s).samp = s.samp := rfl
@[simp] theorem hostRead_sptr (a : PortAddr) (s : State) : (hostRead a s).sptr = s.sptr := rfl
@[simp] theorem hostRead_fcode (a : PortAddr) (s : State) : (hostRead a s).fcode = s.fcode := rfl
@[simp] theorem hostRead_finfo (a : PortAddr) (s : State) : (hostRead a s).finfo = s.finfo := rfl
@[simp] theorem hostRead_pending (a : PortAddr) (s : State) : (hostRead a s).pending = s.pending := rfl
@[simp] theorem hostRead_beRequests (a : PortAddr) (s : State) : (hostRead a s).beRequests = s.beRequests := rfl
@[simp] theorem hostRead_draws (a : PortAddr) (s : State) : (hostRead a s).draws = s.draws := rfl
@[simp] theorem hostRead_maxn (a : PortAddr) (s : State) : (hostRead a s).maxn = s.maxn := rfl
@[simp] theorem hostRead_num (a : PortAddr) (s : State) : (hostRead a s).num = s.num := rfl
@[simp] theorem hostRead_answer (a : PortAddr) (s : State) :
    (hostRead a s).answer = some (readAnswer ((regAt s.maxn a).bind (readReg s))) := rfl

/-! ACCUMULATE whole: what its five stages leave alone (41_accumulate.md rule R140, "State not written"). -/

@[simp] theorem accumulateSegment_cfg (s : State) : (accumulateSegment s).cfg = s.cfg := by simp [accumulateSegment]
@[simp] theorem accumulateSegment_maxn (s : State) : (accumulateSegment s).maxn = s.maxn := by simp [accumulateSegment]
@[simp] theorem accumulateSegment_num (s : State) : (accumulateSegment s).num = s.num := by simp [accumulateSegment]
@[simp] theorem accumulateSegment_nsamp (s : State) : (accumulateSegment s).nsamp = s.nsamp := by simp [accumulateSegment]
@[simp] theorem accumulateSegment_fs (s : State) : (accumulateSegment s).fs = s.fs := by simp [accumulateSegment]
@[simp] theorem accumulateSegment_argFs (s : State) : (accumulateSegment s).argFs = s.argFs := by simp [accumulateSegment]
@[simp] theorem accumulateSegment_samp (s : State) : (accumulateSegment s).samp = s.samp := by simp [accumulateSegment]
@[simp] theorem accumulateSegment_fcode (s : State) : (accumulateSegment s).fcode = s.fcode := by simp [accumulateSegment]
@[simp] theorem accumulateSegment_finfo (s : State) : (accumulateSegment s).finfo = s.finfo := by simp [accumulateSegment]
@[simp] theorem accumulateSegment_pending (s : State) : (accumulateSegment s).pending = s.pending := by simp [accumulateSegment]
@[simp] theorem accumulateSegment_answer (s : State) : (accumulateSegment s).answer = s.answer := by simp [accumulateSegment]
@[simp] theorem accumulateSegment_segcnt (s : State) : (accumulateSegment s).segcnt = s.segcnt + 1 := by simp [accumulateSegment]
@[simp] theorem accumulateSegment_sptr (s : State) : (accumulateSegment s).sptr = 0 := by simp [accumulateSegment]
@[simp] theorem accumulateSegment_draws (s : State) : (accumulateSegment s).draws = s.draws + 1 := by simp [accumulateSegment]
@[simp] theorem accumulateSegment_beRequests (s : State) : (accumulateSegment s).beRequests = backendRequests s.nsamp := by simp [accumulateSegment]

end Sys2Proof.Machine
end

