-- ==== Sys2Proof/Laws/Accumulate.lean ====
section
/-! SUPPORT. What ACCUMULATE and GETRESULT leave in each entry of the register files. -/

namespace Sys2Proof.Machine

/-- An instance of the spec's own format computes with binary32, its three divisors among it (R8, R150, R175). -/
theorem num_of_binary32 {s : State} (h : s.cfg.arithmetic = .binary32) : s.num = binary32 := by
  unfold State.num; rw [h]; rfl

theorem freqDivisor_of_binary32 {s : State} (h : s.cfg.arithmetic = .binary32) :
    freqDivisor s = f32OfNat s.fs.toNat := by
  unfold freqDivisor; rw [num_of_binary32 h]; rfl

theorem countDivisor_of_binary32 {s : State} (h : s.cfg.arithmetic = .binary32) :
    countDivisor s = f32OfNat (segLen s) := by
  unfold countDivisor; rw [num_of_binary32 h]; rfl

theorem segmentDivisor_of_binary32 {s : State} (h : s.cfg.arithmetic = .binary32) :
    segmentDivisor s = f32OfNat s.segcnt.toNat := by
  unfold segmentDivisor; rw [num_of_binary32 h]; rfl

/-- The magnitudes do not depend on the draw (R198): only what MAG leaves in IM does. -/
theorem runBackend_re (b : Backend) (d d' n : Nat) (buf : Buffers) :
    (runBackend b d n buf).re = (runBackend b d' n buf).re := by
  cases b <;> rfl

/-- The input of the backend (R148): the samples less their mean, as binary32 numbers. -/
def backendInput (s : State) : List Word := (List.range (segLen s)).map (centred s)

/-- What the backend returns in RE (R149): the backend function of the segment. -/
theorem backendResult_re {s : State} (hre : segLen s ≤ s.re.length) (him : segLen s ≤ s.im.length) :
    (backendResult (removeMean s)).re = backendFunction s.cfg.backend (segLen s) (backendInput s) := by
  have h1 : (removeMean s).re.take (segLen s) = backendInput s := by
    rw [removeMean_re, mapBelow_take hre 0]; rfl
  have h2 : (removeMean s).im.take (segLen s) = List.replicate (segLen s) posZero := by
    rw [removeMean_im, mapBelow_take him 0]
    simp
  have h3 : segLen (removeMean s) = segLen s := rfl
  unfold backendResult backendFunction
  rw [h3, h1, h2, removeMean_cfg]
  exact runBackend_re _ _ _ _ _

theorem accumulateSegment_re (s : State) :
    (accumulateSegment s).re = (callBackend (removeMean (lazyClear s))).re := by simp [accumulateSegment]

theorem accumulateSegment_im (s : State) :
    (accumulateSegment s).im = (callBackend (removeMean (lazyClear s))).im := by simp [accumulateSegment]

/-- After ACCUMULATE, `RE[i]` is magnitude `i` (R149, R157). -/
theorem readRe_accumulateSegment {s : State} {i : Nat} (hre : segLen s ≤ s.re.length) (him : segLen s ≤ s.im.length)
    (hi : i < segLen s) :
    readRe (accumulateSegment s) i = (backendFunction s.cfg.backend (segLen s) (backendInput s)).getD i 0 := by
  have hb : backendInput (lazyClear s) = backendInput s := rfl
  have := backendResult_re (s := lazyClear s) hre him
  rw [hb] at this
  unfold readRe
  rw [accumulateSegment_re, callBackend_re, mapBelow_below (n := segLen (removeMean (lazyClear s))) hi
    (by simp only [removeMean_re, mapBelow_length]; exact lt_of_lt_of_le hi hre), this]
  rfl

/-- After ACCUMULATE, an entry of RE or IM at or above NSAMP holds what it held (R140). -/
theorem readRe_accumulateSegment_above {s : State} {i : Nat} (hi : segLen s ≤ i) :
    readRe (accumulateSegment s) i = readRe s i ∧ readIm (accumulateSegment s) i = readIm s i := by
  constructor
  · unfold readRe
    rw [accumulateSegment_re, callBackend_re, mapBelow_above (n := segLen (removeMean (lazyClear s))) hi, removeMean_re,
      mapBelow_above (n := segLen (lazyClear s)) hi]
    rfl
  · unfold readIm
    rw [accumulateSegment_im, callBackend_im, mapBelow_above (n := segLen (removeMean (lazyClear s))) hi, removeMean_im,
      mapBelow_above (n := segLen (lazyClear s)) hi]
    rfl

/-- The bins after ACCUMULATE (R145, R152), in terms of the magnitudes RE then holds. -/
theorem accumulateSegment_bin (s : State) :
    (accumulateSegment s).bin = mapBelow (segLen s)
      (fun i old => addToBin s.num s.draws i old
        (binPower s.num s.draws (freqDivisor s) (countDivisor s) i (readRe (accumulateSegment s) i))) 0 (lazyClear s).bin := by
  have h : ∀ i, readRe (callBackend (removeMean (lazyClear s))) i = readRe (accumulateSegment s) i := by
    intro i; unfold readRe; rw [accumulateSegment_re]
  have : (accumulateSegment s).bin = (addPower (callBackend (removeMean (lazyClear s)))).bin := by
    simp [accumulateSegment]
  rw [this, addPower_bin]
  simp only [h]
  rfl

/-- What bin `i` held when its power was added (R145): +0 at the start of a cycle. -/
theorem readBin_lazyClear {s : State} {i : Nat} (hi : i < segLen s) (hb : i < s.bin.length) :
    readBin (lazyClear s) i = if s.segcnt = 0 then posZero else readBin s i := by
  unfold readBin
  rw [lazyClear_bin]
  split
  · exact clearBins_below hi hb
  · rfl

/-- One logical bin after ACCUMULATE (R152). -/
theorem readBin_accumulateSegment {s : State} {i : Nat} (hi : i < segLen s) (hb : i < s.bin.length) :
    readBin (accumulateSegment s) i = addToBin s.num s.draws i (if s.segcnt = 0 then posZero else readBin s i)
      (binPower s.num s.draws (freqDivisor s) (countDivisor s) i (readRe (accumulateSegment s) i)) := by
  have hl : i < (lazyClear s).bin.length := by rw [lazyClear_bin]; split <;> simpa using hb
  rw [← readBin_lazyClear hi hb]
  unfold readBin
  rw [accumulateSegment_bin, mapBelow_below hi hl]

/-- A bin at or above NSAMP holds what it held (R22, R145). -/
theorem readBin_accumulateSegment_above {s : State} {i : Nat} (hi : segLen s ≤ i) :
    readBin (accumulateSegment s) i = readBin s i := by
  unfold readBin
  rw [accumulateSegment_bin, mapBelow_above hi, lazyClear_bin]
  split
  · exact clearBins_above hi
  · rfl

/-- No register file changes its size. -/
theorem accumulateSegment_lengths (s : State) :
    (accumulateSegment s).bin.length = s.bin.length ∧ (accumulateSegment s).re.length = s.re.length ∧
    (accumulateSegment s).im.length = s.im.length := by
  refine ⟨?_, ?_, ?_⟩
  · rw [accumulateSegment_bin, mapBelow_length, lazyClear_bin]; split <;> simp
  · rw [accumulateSegment_re]; simp
  · rw [accumulateSegment_im]; simp

/-- One logical bin after the finalisation of GETRESULT (R171). -/
theorem readBin_finalizeBins {s : State} {i : Nat} (hi : i < s.nsamp.toNat) (hb : i < s.bin.length) :
    readBin (finalizeBins s) i = finalBin s.num s.draws (segmentDivisor s) s.cfg.corr2 i (readBin s i) := by
  unfold readBin
  rw [finalizeBins_bin, mapBelow_below hi hb]

/-- A bin at or above NSAMP is not finalised (R174). -/
theorem readBin_finalizeBins_above {s : State} {i : Nat} (hi : s.nsamp.toNat ≤ i) :
    readBin (finalizeBins s) i = readBin s i := by
  unfold readBin
  rw [finalizeBins_bin, mapBelow_above hi]
end Sys2Proof.Machine
end

