-- ==== Sys2Proof/Laws/Decode.lean ====
section
/-! SUPPORT. The decoder's fields and results read as numbers: what the proofs about words cite. -/

namespace Sys2Proof

/-- `op` as a number. -/
theorem opField_toNat (w : Word) : (opField w).toNat = w.toNat / 2 ^ 24 := by
  have := w.isLt
  simp only [opField, BitVec.extractLsb'_toNat, Nat.shiftRight_eq_div_pow]
  omega

/-- `count` as a number. -/
theorem countField_toNat (w : Word) : (countField w).toNat = w.toNat % 2 ^ 16 := by
  simp [countField, BitVec.extractLsb'_toNat]

/-- Format C's must-be-zero bits as a number. -/
theorem rsvzC_toNat (w : Word) : (rsvzC w).toNat = w.toNat / 2 ^ 16 % 2 ^ 8 := by
  simp [rsvzC, BitVec.extractLsb'_toNat, Nat.shiftRight_eq_div_pow]

/-- Format Z's must-be-zero bits as a number. -/
theorem rsvzZ_toNat (w : Word) : (rsvzZ w).toNat = w.toNat % 2 ^ 24 := by
  simp [rsvzZ, BitVec.extractLsb'_toNat]

/-- A CONFIGURE word is `0x01000000 + count` (R93). -/
theorem encode_configure_toNat (c : BitVec 16) : (encode (.configure c)).toNat = 0x01000000 + c.toNat := by
  simp only [encode, BitVec.toNat_append]
  exact (Nat.shiftLeft_add_eq_or_of_lt c.isLt 0x100).symm

/-- A CONFIGURE word is `0x01000000 | count` (R93). -/
theorem encode_configure_or (c : BitVec 16) : encode (.configure c) = 0x01000000 ||| c.setWidth 32 := by
  apply BitVec.eq_of_toNat_eq
  have := c.isLt
  rw [encode_configure_toNat, BitVec.toNat_or, BitVec.toNat_setWidth, Nat.mod_eq_of_lt (by omega)]
  exact Nat.shiftLeft_add_eq_or_of_lt c.isLt 0x100

/-- A CONFIGURE word tells its count. -/
theorem encode_configure_inj (c c' : BitVec 16) : encode (.configure c) = encode (.configure c') ↔ c = c' := by
  constructor
  · intro h
    have := congrArg BitVec.toNat h
    rw [encode_configure_toNat, encode_configure_toNat] at this
    exact BitVec.eq_of_toNat_eq (by omega)
  · rintro rfl; rfl

/-- The checks of R99 on a word, as numbers. -/
theorem legalWord_iff (w : Word) :
    legalWord w = true ↔
      (w.toNat / 2 ^ 24 = 1 ∧ w.toNat / 2 ^ 16 % 2 ^ 8 = 0) ∨
      ((w.toNat / 2 ^ 24 = 2 ∨ w.toNat / 2 ^ 24 = 3 ∨ w.toNat / 2 ^ 24 = 4) ∧ w.toNat % 2 ^ 24 = 0) := by
  have h1 := opField_toNat w
  have h2 := rsvzC_toNat w
  have h3 := rsvzZ_toNat w
  have e1 : (w.extractLsb' 24 8 = 0x01) ↔ w.toNat / 2 ^ 24 = 1 := by
    rw [← h1]; exact ⟨fun h => by simp [opField, h], fun h => BitVec.eq_of_toNat_eq h⟩
  have e2 : (w.extractLsb' 16 8 = 0) ↔ w.toNat / 2 ^ 16 % 2 ^ 8 = 0 := by
    rw [← h2]; exact ⟨fun h => by simp [rsvzC, h], fun h => BitVec.eq_of_toNat_eq h⟩
  have e3 : (w.extractLsb' 0 24 = 0) ↔ w.toNat % 2 ^ 24 = 0 := by
    rw [← h3]; exact ⟨fun h => by simp [rsvzZ, h], fun h => BitVec.eq_of_toNat_eq h⟩
  have e4 : (w.extractLsb' 24 8).toNat = w.toNat / 2 ^ 24 := h1
  simp only [legalWord, opLegal, rsvzLegal, e4, Bool.and_eq_true, decide_eq_true_eq]
  by_cases h : w.toNat / 2 ^ 24 = 1
  · rw [if_pos (e1.2 h)]; simp only [beq_iff_eq, e2]; omega
  · rw [if_neg (fun hc => h (e1.1 hc))]; simp only [beq_iff_eq, e3]; omega

/-- The decoder's result, as numbers: one case for each row of the opcode map, one for the illegal words. -/
theorem decode_cases (w : Word) :
    (w.toNat / 2 ^ 24 = 1 ∧ w.toNat / 2 ^ 16 % 2 ^ 8 = 0 ∧ decode w = .ok (.configure (countField w))) ∨
    (w.toNat = 0x02000000 ∧ decode w = .ok .accumulate) ∨
    (w.toNat = 0x03000000 ∧ decode w = .ok .getResult) ∨
    (w.toNat = 0x04000000 ∧ decode w = .ok .clear) ∨
    (legalWord w = false ∧ ∃ e, decode w = .error e) := by
  have h1 := opField_toNat w
  have h2 := rsvzC_toNat w
  have h3 := rsvzZ_toNat w
  have hl := legalWord_iff w
  have hop : ∀ k : BitVec 8, opField w = k ↔ w.toNat / 2 ^ 24 = k.toNat := fun k => by
    rw [← h1]; exact ⟨fun h => by rw [h], fun h => BitVec.eq_of_toNat_eq h⟩
  have hz : rsvzZ w = 0 ↔ w.toNat % 2 ^ 24 = 0 := by
    rw [← h3]; exact ⟨fun h => by simp [h], fun h => BitVec.eq_of_toNat_eq h⟩
  have hc : rsvzC w = 0 ↔ w.toNat / 2 ^ 16 % 2 ^ 8 = 0 := by
    rw [← h2]; exact ⟨fun h => by simp [h], fun h => BitVec.eq_of_toNat_eq h⟩
  have hf : legalWord w = false ↔ ¬ legalWord w = true := by simp
  rw [hf, hl]
  have o1 : opField w = 0x01 ↔ w.toNat / 2 ^ 24 = 1 := hop 1
  have o2 : opField w = 0x02 ↔ w.toNat / 2 ^ 24 = 2 := hop 2
  have o3 : opField w = 0x03 ↔ w.toNat / 2 ^ 24 = 3 := hop 3
  have o4 : opField w = 0x04 ↔ w.toNat / 2 ^ 24 = 4 := hop 4
  unfold decode
  simp only [o1, o2, o3, o4, hz, hc]
  split
  · split
    · left; exact ⟨by omega, by omega, rfl⟩
    · right; right; right; right; exact ⟨by omega, _, rfl⟩
  · split
    · split
      · right; left; exact ⟨by omega, rfl⟩
      · right; right; right; right; exact ⟨by omega, _, rfl⟩
    · split
      · split
        · right; right; left; exact ⟨by omega, rfl⟩
        · right; right; right; right; exact ⟨by omega, _, rfl⟩
      · split
        · split
          · right; right; right; left; exact ⟨by omega, rfl⟩
          · right; right; right; right; exact ⟨by omega, _, rfl⟩
        · right; right; right; right; exact ⟨by omega, _, rfl⟩
end Sys2Proof
end

