-- ==== Sys2Proof/Laws/Exec.lean ====
section
/-! SUPPORT. Everything each command can do, said once: every proof about `exec` cites these. -/

namespace Sys2Proof.Machine

theorem segmentFull_iff (s : State) : segmentFull s = true ↔ s.sptr.toNat = s.nsamp.toNat := by
  have h := s.nsamp.isLt
  have e : (s.nsamp.setWidth 17).toNat = s.nsamp.toNat := by
    rw [BitVec.toNat_setWidth]; omega
  simp only [segmentFull, beq_iff_eq]
  rw [← e]
  exact ⟨fun h => by rw [h], fun h => BitVec.eq_of_toNat_eq h⟩

theorem segmentFull_eq_false_iff (s : State) : segmentFull s = false ↔ s.sptr.toNat ≠ s.nsamp.toNat := by
  rw [← Bool.not_eq_true, segmentFull_iff]

theorem badCount_iff (s : State) (c : BitVec 16) : badCount s c = true ↔ c = 0 ∨ s.maxn < c.toNat := by
  simp [badCount]

/-- Everything CONFIGURE can do (R121). -/
theorem exec_configure_cases (c : BitVec 16) (s : State) :
    ((c = 0 ∨ s.maxn < c.toNat) ∧
      exec (.configure c) s = .next (raiseFault .cfgCount (encode (.configure c)) s)) ∨
    ((c ≠ 0 ∧ c.toNat ≤ s.maxn) ∧ s.argFs = 0 ∧
      exec (.configure c) s = .next (raiseFault .cfgFreq (encode (.configure c)) s)) ∨
    ((c ≠ 0 ∧ c.toNat ≤ s.maxn) ∧ s.argFs ≠ 0 ∧
      exec (.configure c) s = .next (answerOk (applyConfig c s))) := by
  have hb := badCount_iff s c
  show (_ ∧ execConfigure c s = _) ∨ (_ ∧ _ ∧ execConfigure c s = _) ∨ (_ ∧ _ ∧ execConfigure c s = _)
  unfold execConfigure
  split
  · next h => exact Or.inl ⟨hb.1 h, rfl⟩
  · next h =>
    have h1 : c ≠ 0 ∧ c.toNat ≤ s.maxn := by
      rw [hb, not_or, Nat.not_lt] at h; exact h
    split
    · next h2 => exact Or.inr (Or.inl ⟨h1, h2, rfl⟩)
    · next h2 => exact Or.inr (Or.inr ⟨h1, h2, rfl⟩)

/-- Everything ACCUMULATE can do (R140 to R144). -/
theorem exec_accumulate_cases (s : State) :
    (s.nsamp = 0 ∧ exec .accumulate s = .next (raiseFault .notConfigured 0x02000000 s)) ∨
    (s.nsamp ≠ 0 ∧ s.sptr.toNat ≠ s.nsamp.toNat ∧
      exec .accumulate s = .next (raiseFault .sampleUnderrun 0x02000000 s)) ∨
    (s.nsamp ≠ 0 ∧ s.sptr.toNat = s.nsamp.toNat ∧ s.segcnt = 0xFFFFFFFF ∧
      exec .accumulate s = .next (raiseFault .segOverflow 0x02000000 s)) ∨
    (s.nsamp ≠ 0 ∧ s.sptr.toNat = s.nsamp.toNat ∧ s.segcnt ≠ 0xFFFFFFFF ∧
      exec .accumulate s = .next (answerOk (accumulateSegment s))) := by
  have e : encode .accumulate = 0x02000000 := rfl
  simp only [exec, execAccumulate, e, segmentFull_eq_false_iff]
  by_cases h1 : s.nsamp = 0
  · exact Or.inl ⟨h1, by rw [if_pos h1]⟩
  · rw [if_neg h1]
    by_cases h2 : s.sptr.toNat = s.nsamp.toNat
    · rw [if_neg (not_not.2 h2)]
      by_cases h3 : s.segcnt = 0xFFFFFFFF
      · exact Or.inr (Or.inr (Or.inl ⟨h1, h2, h3, by rw [if_pos h3]⟩))
      · exact Or.inr (Or.inr (Or.inr ⟨h1, h2, h3, by rw [if_neg h3]⟩))
    · exact Or.inr (Or.inl ⟨h1, h2, by rw [if_pos h2]⟩)

/-- Everything GETRESULT can do (R170, R172). -/
theorem exec_getResult_cases (s : State) :
    (s.segcnt = 0 ∧ exec .getResult s = .next (answerOk s)) ∨
    (s.segcnt ≠ 0 ∧ exec .getResult s = .next (answerOk (finalizeBins s))) := by
  show (_ ∧ execGetResult s = _) ∨ (_ ∧ execGetResult s = _)
  unfold execGetResult
  split
  · next h => exact Or.inl ⟨h, rfl⟩
  · next h => exact Or.inr ⟨h, rfl⟩

/-- What CLEAR does (R185). -/
theorem exec_clear (s : State) :
    exec .clear s = .next (answerOk { s with bin := clearBins s.nsamp.toNat s.bin }) := rfl

end Sys2Proof.Machine
end

