-- ==== Sys2Proof/Laws/Float32.lean ====
section
/-! SUPPORT. The fields of a packed pattern, the NaN patterns, and `roundMag` on values it represents exactly. -/

namespace Sys2Proof.Machine

/-! ### Fields of a pattern -/

theorem pack_toNat {s : Bool} {m : Nat} (h : m < 2 ^ 31) : (pack s m).toNat = (if s then 2 ^ 31 else 0) + m := by
  simp only [pack, BitVec.toNat_ofNat]
  cases s <;> simp <;> omega

theorem signBit_eq (p : Word) : signBit p = decide (2 ^ 31 ≤ p.toNat) := by
  have := p.isLt
  simp only [signBit, BitVec.getLsbD, Nat.testBit_eq_decide_div_mod_eq]
  congr 1
  exact propext ⟨fun h => by omega, fun h => by omega⟩

theorem expField_eq (p : Word) : expField p = p.toNat / 2 ^ 23 % 2 ^ 8 := by
  simp [expField, BitVec.extractLsb'_toNat, Nat.shiftRight_eq_div_pow]

theorem fracField_eq (p : Word) : fracField p = p.toNat % 2 ^ 23 := by
  simp [fracField, BitVec.extractLsb'_toNat]

theorem expField_lt (p : Word) : expField p < 256 := by rw [expField_eq]; omega
theorem fracField_lt (p : Word) : fracField p < 2 ^ 23 := by rw [fracField_eq]; omega

/-- A pattern is its sign and its lower 31 bits. -/
theorem pack_signBit (p : Word) : pack (signBit p) (expField p * 2 ^ 23 + fracField p) = p := by
  have h := p.isLt
  apply BitVec.eq_of_toNat_eq
  rw [pack_toNat (by rw [expField_eq, fracField_eq]; omega), signBit_eq, expField_eq, fracField_eq]
  by_cases h2 : 2 ^ 31 ≤ p.toNat <;> simp only [h2, decide_true, decide_false, if_true, Bool.false_eq_true, if_false]
  all_goals omega

@[simp] theorem signBit_pack {s : Bool} {m : Nat} (h : m < 2 ^ 31) : signBit (pack s m) = s := by
  rw [signBit_eq, pack_toNat h]
  cases s
  · simpa using h
  · simp

theorem expField_pack {s : Bool} {m : Nat} (h : m < 2 ^ 31) : expField (pack s m) = m / 2 ^ 23 := by
  rw [expField_eq, pack_toNat h]
  cases s <;> simp only [Bool.false_eq_true, if_false, if_true] <;> omega

theorem fracField_pack {s : Bool} {m : Nat} (h : m < 2 ^ 31) : fracField (pack s m) = m % 2 ^ 23 := by
  rw [fracField_eq, pack_toNat h]
  cases s <;> simp only [Bool.false_eq_true, if_false, if_true] <;> omega

/-! ### Kinds of value -/

theorem isNaN_iff (p : Word) : isNaN p = true ↔ expField p = 255 ∧ fracField p ≠ 0 := by simp [isNaN]
theorem isInf_iff (p : Word) : isInf p = true ↔ expField p = 255 ∧ fracField p = 0 := by simp [isInf]
theorem isZero_iff (p : Word) : isZero p = true ↔ expField p = 0 ∧ fracField p = 0 := by simp [isZero]
theorem isFinite_iff (p : Word) : isFinite p = true ↔ expField p ≠ 255 := by simp [isFinite]

theorem isNaN_eq_false_of_finite {p : Word} (h : isFinite p = true) : isNaN p = false := by
  rw [isFinite_iff] at h; simp [isNaN, h]
theorem isInf_eq_false_of_finite {p : Word} (h : isFinite p = true) : isInf p = false := by
  rw [isFinite_iff] at h; simp [isInf, h]

/-- A pattern that is neither a NaN nor an infinity is finite. -/
theorem isFinite_of_not {p : Word} (h1 : isNaN p = false) (h2 : isInf p = false) : isFinite p = true := by
  rw [isFinite_iff]; intro h; simp [isNaN, isInf, h] at h1 h2; exact h2 h1

theorem scaled_eq_zero (p : Word) : scaled p = 0 ↔ isZero p = true := by
  rw [isZero_iff]
  unfold scaled
  split
  · simp_all
  · constructor
    · intro h
      have : 0 < (2 ^ 23 + fracField p) * 2 ^ (expField p - 1) := by positivity
      omega
    · rintro ⟨h, -⟩; contradiction

/-- Bits drawn for a NaN make a NaN: sign, exponent and fraction of the pattern made. -/
theorem nanPattern_toNat (b : Word) :
    (nanPattern b).toNat = b.toNat / 2 ^ 31 * 2 ^ 31 + 255 * 2 ^ 23 +
      (if b.toNat % 2 ^ 23 = 0 then 1 else b.toNat % 2 ^ 23) := by
  have hb := b.isLt
  have key : ∀ (x : BitVec 1) (f : BitVec 23),
      ((x ++ (0xFF#8 : BitVec 8) ++ f : Word)).toNat = x.toNat * 2 ^ 31 + 255 * 2 ^ 23 + f.toNat := by
    intro x f
    rw [BitVec.toNat_append, ← Nat.shiftLeft_add_eq_or_of_lt f.isLt, BitVec.toNat_append,
      ← Nat.shiftLeft_add_eq_or_of_lt (by decide : (0xFF#8 : BitVec 8).toNat < 2 ^ 8)]
    simp only [Nat.shiftLeft_eq, BitVec.toNat_ofNat]
    omega
  have h1 : (b.extractLsb' 31 1).toNat = b.toNat / 2 ^ 31 := by
    simp only [BitVec.extractLsb'_toNat, Nat.shiftRight_eq_div_pow]; omega
  have h2 : (b.extractLsb' 0 23).toNat = b.toNat % 2 ^ 23 := by simp [BitVec.extractLsb'_toNat]
  have h3 : b.extractLsb' 0 23 = 0 ↔ b.toNat % 2 ^ 23 = 0 := by
    rw [← h2]; exact ⟨fun h => by simp [h], fun h => BitVec.eq_of_toNat_eq h⟩
  simp only [nanPattern]
  by_cases h : b.toNat % 2 ^ 23 = 0
  · rw [if_pos (h3.2 h), if_pos h]
    simpa [h1] using key (b.extractLsb' 31 1) 1#23
  · rw [if_neg (fun hc => h (h3.1 hc)), if_neg h]
    have := key (b.extractLsb' 31 1) (b.extractLsb' 0 23)
    rw [h1, h2] at this
    exact this

theorem isNaN_nanPattern (b : Word) : isNaN (nanPattern b) = true := by
  have hb := b.isLt
  have h := nanPattern_toNat b
  rw [isNaN_iff, expField_eq, fracField_eq]
  split at h <;> omega

/-- Every pattern a command draws for a NaN result is a NaN. -/
theorem isNaN_drawnNaN (d i op : Nat) : isNaN (drawnNaN d i op) = true := isNaN_nanPattern _

/-! ### Rounding -/

theorem roundMag_le (num den : Nat) : roundMag num den ≤ infMag := Nat.min_le_right _ _

theorem roundMag_lt (num den : Nat) : roundMag num den < 2 ^ 31 := lt_of_le_of_lt (roundMag_le _ _) (by decide)

theorem signBit_rnd32 (s : Bool) (num den : Nat) : signBit (rnd32 s num den) = s := signBit_pack (roundMag_lt _ _)

theorem isNaN_rnd32 (s : Bool) (num den : Nat) : isNaN (rnd32 s num den) = false := by
  have h := roundMag_le num den
  have h2 := roundMag_lt num den
  unfold infMag at h
  rw [← Bool.not_eq_true, isNaN_iff, rnd32, expField_pack h2, fracField_pack h2]
  omega

theorem nearestEven_mul {d : Nat} (m : Nat) (hd : 0 < d) : nearestEven (m * d) d = m := by
  simp [nearestEven, Nat.mul_div_cancel _ hd, hd]

/-- A quotient that is exactly `m × 2^q` in units of 2^-149, with `m` a significand of 24 bits for that `q`, rounds to the
pattern that stands for it, or overflows. -/
theorem roundMag_exact {num den m q : Nat} (hd : 0 < den) (h : num * 2 ^ 149 = m * (den * 2 ^ q)) (hm : m < 2 ^ 24)
    (hq : q = 0 ∨ 2 ^ 23 ≤ m) : roundMag num den = min (q * 2 ^ 23 + m) infMag := by
  have hdiv : num * 2 ^ 149 / den = m * 2 ^ q := by
    rw [h, show m * (den * 2 ^ q) = m * 2 ^ q * den by ring, Nat.mul_div_cancel _ hd]
  have hquant : quantum (num * 2 ^ 149) den = q := by
    unfold quantum
    rw [hdiv]
    by_cases hm0 : m = 0
    · subst hm0; rcases hq with rfl | hq
      · rfl
      · omega
    have hpos : m * 2 ^ q ≠ 0 := by positivity
    have hup : (m * 2 ^ q).log2 < 24 + q := by
      rw [Nat.log2_lt hpos, pow_add]
      exact Nat.mul_lt_mul_of_pos_right hm (by positivity)
    rcases hq with rfl | hq
    · omega
    · have hlo : 23 + q ≤ (m * 2 ^ q).log2 := by
        rw [Nat.le_log2 hpos, pow_add]
        exact Nat.mul_le_mul_right _ hq
      omega
  unfold roundMag
  simp only [hquant]
  rw [h, nearestEven_mul m (by positivity)]

@[simp] theorem roundMag_zero {den : Nat} (hd : 0 < den) : roundMag 0 den = 0 := by
  simpa using roundMag_exact (num := 0) (m := 0) (q := 0) hd (by simp) (by norm_num) (Or.inl rfl)

/-- A finite pattern's significand and spacing. -/
theorem scaled_decomp {p : Word} (h : isFinite p = true) :
    ∃ m q, scaled p = m * 2 ^ q ∧ m < 2 ^ 24 ∧ (q = 0 ∨ 2 ^ 23 ≤ m) ∧
      expField p * 2 ^ 23 + fracField p = q * 2 ^ 23 + m ∧ q * 2 ^ 23 + m < infMag := by
  have h1 := expField_lt p
  have h2 := fracField_lt p
  rw [isFinite_iff] at h
  unfold infMag
  by_cases he : expField p = 0
  · exact ⟨fracField p, 0, by simp [scaled, he], by omega, Or.inl rfl, by omega, by omega⟩
  · exact ⟨2 ^ 23 + fracField p, expField p - 1, by simp [scaled, he], by omega, Or.inr (by omega), by omega, by omega⟩

/-- The value of the pattern made from a significand and a spacing. -/
theorem scaled_pack {s : Bool} {m q : Nat} (hm : m < 2 ^ 24) (hq : q = 0 ∨ 2 ^ 23 ≤ m) (hi : q * 2 ^ 23 + m < infMag) :
    scaled (pack s (q * 2 ^ 23 + m)) = m * 2 ^ q ∧ isFinite (pack s (q * 2 ^ 23 + m)) = true := by
  unfold infMag at hi
  have hlt : q * 2 ^ 23 + m < 2 ^ 31 := by omega
  rw [isFinite_iff]
  unfold scaled
  rw [expField_pack hlt, fracField_pack hlt]
  refine ⟨?_, by omega⟩
  by_cases hm23 : m < 2 ^ 23
  · have : q = 0 := by omega
    subst this
    rw [if_pos (by omega)]; omega
  · rw [if_neg (by omega)]
    have e1 : (q * 2 ^ 23 + m) / 2 ^ 23 - 1 = q := by omega
    have e2 : 2 ^ 23 + (q * 2 ^ 23 + m) % 2 ^ 23 = m := by omega
    rw [e1, e2]

/-! ### The primitives, by kind of operand -/

theorem f32Mul_finite {nan a b : Word} (ha : isFinite a = true) (hb : isFinite b = true) :
    f32Mul nan a b = rnd32 (signBit a ^^ signBit b) (scaled a * scaled b) (2 ^ 149 * 2 ^ 149) := by
  simp [f32Mul, isNaN_eq_false_of_finite, isInf_eq_false_of_finite, ha, hb]

theorem f32Div_finite {nan a b : Word} (ha : isFinite a = true) (hb : isFinite b = true) (hz : isZero b = false) :
    f32Div nan a b = rnd32 (signBit a ^^ signBit b) (scaled a) (scaled b) := by
  simp [f32Div, isNaN_eq_false_of_finite, isInf_eq_false_of_finite, ha, hb, hz]

theorem f32Add_finite {nan a b : Word} (ha : isFinite a = true) (hb : isFinite b = true) :
    f32Add nan a b = rnd32 (decide (scaledInt a + scaledInt b < 0)) (scaledInt a + scaledInt b).natAbs (2 ^ 149) := by
  simp [f32Add, isNaN_eq_false_of_finite, isInf_eq_false_of_finite, ha, hb]
end Sys2Proof.Machine
end

