-- ==== Sys2Proof/Laws/PerInstr.lean ====
section
/-! SUPPORT. Statements made once for each instruction, as syntax. -/

namespace Sys2Proof.Laws.LegalEncoding

/-- An instruction is well formed, and its word is legal: its `op` is one of the four, its must-be-zero bits are zero
(30_encoding.md rules R92, R99). -/
def Statement (i : Instr) : Prop := i.wellFormed = true ∧ legalWord (encode i) = true

theorem configure (count : BitVec 16) : Statement (.configure count) := by
  have hn := encode_configure_toNat count
  have hlt := count.isLt
  exact ⟨rfl, (legalWord_iff _).2 (by omega)⟩

theorem accumulate : Statement .accumulate := ⟨rfl, by decide⟩

theorem getResult : Statement .getResult := ⟨rfl, by decide⟩

theorem clear : Statement .clear := ⟨rfl, by decide⟩

end Sys2Proof.Laws.LegalEncoding
end

