-- ==== Sys2Proof/Laws/Step.lean ====
section
/-! SUPPORT. Everything a transaction can do, said once: every proof about `step` cites these. -/

namespace Sys2Proof.Machine

/-- Everything PUSH can do (R135, R137). -/
theorem push_cases (data : Word) (s : State) :
    (s.sptr.toNat = s.nsamp.toNat ∧ push data s = raiseFault .sampleOverrun data s) ∨
    (s.sptr.toNat ≠ s.nsamp.toNat ∧ push data s = answerOk (storeSample data s)) := by
  simp only [push, segmentFull_iff]
  by_cases h : s.sptr.toNat = s.nsamp.toNat
  · exact Or.inl ⟨h, by rw [if_pos h]⟩
  · exact Or.inr ⟨h, by rw [if_neg h]⟩

/-- The writable registers are at 0x08, 0x10 and 0x24 (R63). -/
theorem regAt_writable {maxn : Nat} {addr : PortAddr} {r : PortReg} (h : regAt maxn addr = some r)
    (hw : writable r = true) :
    (addr = 0x08 ∧ r = .cmd) ∨ (addr = 0x10 ∧ r = .argFs) ∨ (addr = 0x24 ∧ r = .sample) := by
  have ha : ∀ k : PortAddr, addr.toNat = k.toNat → addr = k := fun k h => BitVec.eq_of_toNat_eq h
  unfold regAt at h
  simp only at h
  split at h
  · cases h
  · split at h
    · simp only [regMap, List.lookup_cons] at h
      repeat' split at h
      all_goals first
        | (cases h; simp [writable] at hw; done)
        | (rename_i hh; cases h; simp at hh; first
            | exact Or.inl ⟨ha 0x08 hh, rfl⟩
            | exact Or.inr (Or.inl ⟨ha 0x10 hh, rfl⟩)
            | exact Or.inr (Or.inr ⟨ha 0x24 hh, rfl⟩))
        | cases h
    · split at h
      · cases h; simp [writable] at hw
      · cases h

theorem regAt_cmd (maxn : Nat) : regAt maxn 0x08 = some .cmd := rfl
theorem regAt_argFs (maxn : Nat) : regAt maxn 0x10 = some .argFs := rfl
theorem regAt_sample (maxn : Nat) : regAt maxn 0x24 = some .sample := rfl

theorem flagFault_iff (s : State) : flagFault s = true ↔ s.fcode ≠ 0 := by simp [flagFault]

/-- Everything `HostWrite` can do (R63, R66). -/
theorem hostWrite_cases (addr : PortAddr) (data : Word) (s : State) :
    (((addr ≠ 0x08 ∧ addr ≠ 0x10 ∧ addr ≠ 0x24) ∨ s.fcode ≠ 0) ∧ hostWrite addr data s = .next (busError s)) ∨
    (s.fcode = 0 ∧ addr = 0x08 ∧ hostWrite addr data s = command data s) ∨
    (s.fcode = 0 ∧ addr = 0x10 ∧ hostWrite addr data s = .next (answerOk (setArgFs data s))) ∨
    (s.fcode = 0 ∧ addr = 0x24 ∧ hostWrite addr data s = .next (push data s)) := by
  have hff := flagFault_iff s
  unfold hostWrite
  split
  · next hr =>
    refine Or.inl ⟨Or.inl ⟨?_, ?_, ?_⟩, rfl⟩ <;> rintro rfl
    · rw [regAt_cmd] at hr; cases hr
    · rw [regAt_argFs] at hr; cases hr
    · rw [regAt_sample] at hr; cases hr
  · next r hr =>
    split
    · next hw =>
      refine Or.inl ⟨Or.inl ⟨?_, ?_, ?_⟩, rfl⟩ <;> rintro rfl
      · rw [regAt_cmd] at hr; cases hr; cases hw
      · rw [regAt_argFs] at hr; cases hr; cases hw
      · rw [regAt_sample] at hr; cases hr; cases hw
    · next hw =>
      split
      · next hf => exact Or.inl ⟨Or.inr (hff.1 hf), rfl⟩
      · next hf =>
        have hf0 : s.fcode = 0 := by rw [hff, not_not] at hf; exact hf
        rcases regAt_writable hr (by simpa using hw) with ⟨h, rfl⟩ | ⟨h, rfl⟩ | ⟨h, rfl⟩
        · exact Or.inr (Or.inl ⟨hf0, h, rfl⟩)
        · exact Or.inr (Or.inr (Or.inl ⟨hf0, h, rfl⟩))
        · exact Or.inr (Or.inr (Or.inr ⟨hf0, h, rfl⟩))

/-- A legal word runs its instruction, an illegal one raises fault 1 (R97, R99). -/
theorem command_cases (w : Word) (s : State) :
    (legalWord w = true ∧ ∃ i, decode w = .ok i ∧ command w s = exec i s) ∨
    (legalWord w = false ∧ command w s = .next (raiseFault .illegalCmd w s)) := by
  have hl := legalWord_iff w
  unfold command
  rcases decode_cases w with ⟨h1, h2, h⟩ | ⟨h1, h⟩ | ⟨h1, h⟩ | ⟨h1, h⟩ | ⟨hf, e, h⟩
  · exact Or.inl ⟨hl.2 (by omega), _, h, by rw [h]⟩
  · exact Or.inl ⟨hl.2 (by omega), _, h, by rw [h]⟩
  · exact Or.inl ⟨hl.2 (by omega), _, h, by rw [h]⟩
  · exact Or.inl ⟨hl.2 (by omega), _, h, by rw [h]⟩
  · exact Or.inr ⟨hf, by rw [h]⟩

/-- A step accepts the oldest transaction and performs it. -/
theorem step_cons {s : State} {u : Txn} {rest : List Txn} (h : s.pending = u :: rest) :
    step s = transact u (accept rest s) := by
  simp [step, stepPort, h]

/-- Everything a step can do with a transaction that asserts no reset: a bus error, a read, SETFS, PUSH, an illegal word, or
a command (R62, R63, R97). -/
theorem step_cases {s t : State} {u : Txn} {rest : List Txn} (hp : s.pending = u :: rest)
    (hr : isReset u = false) (h : step s = .next t) :
   let s0 := accept rest s
   (t = busError s0 ∧ (s.fcode ≠ 0 ∨ (∀ a d, u = .write a d → (a ≠ 0x08 ∧ a ≠ 0x10 ∧ a ≠ 0x24))) ) ∨
   (∃ a, u = .read a ∧ t = hostRead a s0) ∨
   (s.fcode = 0 ∧ ∃ d, u = .write 0x10 d ∧ t = answerOk (setArgFs d s0)) ∨
   (s.fcode = 0 ∧ ∃ d, u = .write 0x24 d ∧ t = push d s0) ∨
   (s.fcode = 0 ∧ ∃ w, u = .write 0x08 w ∧ legalWord w = false ∧ t = raiseFault .illegalCmd w s0) ∨
   (s.fcode = 0 ∧ ∃ i, u = .write 0x08 (encode i) ∧ exec i s0 = .next t) := by
  intro s0
  rw [step_cons hp] at h
  cases u with
  | read a => simp only [transact] at h; cases h; exact Or.inr (Or.inl ⟨a, rfl, rfl⟩)
  | oddWidth => cases h; exact Or.inl ⟨rfl, Or.inr (by rintro _ _ ⟨⟩)⟩
  | reset => cases hr
  | cutWrite => cases hr
  | write a d =>
    simp only [transact] at h
    rcases hostWrite_cases a d (accept rest s) with ⟨h1, h2⟩ | ⟨h1, rfl, h2⟩ | ⟨h1, rfl, h2⟩ | ⟨h1, rfl, h2⟩ <;> rw [h2] at h
    · cases h; refine Or.inl ⟨rfl, ?_⟩
      rcases h1 with h1 | h1
      · right; rintro _ _ ⟨⟩; exact h1
      · left; exact h1
    · rcases command_cases d (accept rest s) with ⟨_, i, hi, h3⟩ | ⟨h4, h3⟩ <;> rw [h3] at h
      · right; right; right; right; right
        refine ⟨h1, i, ?_, h⟩
        have hd : encode i = d := by
          rcases decode_cases d with ⟨ha, hb, hc⟩ | ⟨ha, hc⟩ | ⟨ha, hc⟩ | ⟨ha, hc⟩ | ⟨_, e, hc⟩ <;> rw [hc] at hi <;> cases hi
          · apply BitVec.eq_of_toNat_eq; rw [encode_configure_toNat, countField_toNat]; have := d.isLt; omega
          · apply BitVec.eq_of_toNat_eq; rw [ha]; rfl
          · apply BitVec.eq_of_toNat_eq; rw [ha]; rfl
          · apply BitVec.eq_of_toNat_eq; rw [ha]; rfl
        rw [hd]
      · cases h
        exact Or.inr (Or.inr (Or.inr (Or.inr (Or.inl ⟨h1, d, rfl, h4, rfl⟩))))
    · cases h; exact Or.inr (Or.inr (Or.inl ⟨h1, d, rfl, rfl⟩))
    · cases h; exact Or.inr (Or.inr (Or.inr (Or.inl ⟨h1, d, rfl, rfl⟩)))

end Sys2Proof.Machine
end

