-- ==== Sys2Proof/Tests/Slice0.lean ====
section
/-! SUPPORT. Tests of the model, their expected results taken from spec/95_test_vectors.md or written out by hand from the
encoding tables, and for every statement a witness that meets its hypotheses. -/

namespace Sys2Proof.Machine

/-! ### Small states -/

/-- Start of vector V20: MAXN = 8, BE_abs, NSAMP = 4, FS = 2, SAMP = 1, 2, 3, 4 pushed, BIN arbitrary. -/
def small : State :=
  { cfg := { maxn := 8, beMaxn := 8, corr2 := 0x4021CC64, backend := .abs, arithmetic := .binary32 }
    nsamp := 4, fs := 2, argFs := 2, segcnt := 0
    bin := [0x3E800000, 0x00000000, 0x3F000000, 0x40000000, 0x11111111, 0x22222222, 0x33333333, 0x44444444]
    re := List.replicate 8 0x55555555
    im := List.replicate 8 0x66666666
    samp := [1, 2, 3, 4, 9, 9, 9, 9]
    sptr := 4, fcode := 0, finfo := 0
    pending := [], answer := none, beRequests := [], draws := 1 }

/-- `small` with the host about to issue `u`. -/
def sending (u : Txn) (s : State) : State := { s with pending := [u] }

/-- `small` as a reset leaves its scalars: not configured, no frequency staged, nothing pushed. -/
def bare : State := { small with nsamp := 0, fs := 0, argFs := 0, sptr := 0 }

/-- `small` in the Faulted state. -/
def faulted : State := { small with fcode := 5, finfo := 0x02000000 }

/-- A field of a step's next state. -/
def look {α : Type} (f : State → α) : Host.Outcome State Fault Refusal → Option α
  | .next t => some (f t)
  | .fault _ => none
  | .refused _ => none

/-! ### Decode: words written out bit by bit from 30_encoding.md R90 to R96 -/

/-- Format C: op 0000_0001, rsvz 0, count 0000_0000_0100_0000 (V1). -/
theorem test_decode_configure :
    decode 0b0000_0001_0000_0000_0000_0000_0100_0000 = .ok (.configure 64) := by decide

theorem test_decode_configure_lowest_and_highest_count_bit :
    decode 0b0000_0001_0000_0000_1000_0000_0000_0001 = .ok (.configure 0x8001) := by decide

theorem test_decode_accumulate : decode 0b0000_0010_0000_0000_0000_0000_0000_0000 = .ok .accumulate := by decide
theorem test_decode_getResult : decode 0b0000_0011_0000_0000_0000_0000_0000_0000 = .ok .getResult := by decide
theorem test_decode_clear : decode 0b0000_0100_0000_0000_0000_0000_0000_0000 = .ok .clear := by decide

/-- The table's own numbering: 32 bits, and a number that does not fit them is no word. -/
theorem test_decodeTableWord :
    decodeTableWord 32 0x01000040 = some (.configure 64) ∧ decodeTableWord 32 0x02000000 = some .accumulate ∧
    decodeTableWord 32 0x05000000 = none ∧ decodeTableWord 32 0x100000000 = none := by decide

/-! ### Well-formedness smoke test: one ill-formed word or line for each check (R99, R100) -/

theorem test_ill_op_zero : opLegal 0x00000000 = false ∧ legalWord 0x00000000 = false := by decide
theorem test_ill_op_five : opLegal 0x05000000 = false ∧ legalWord 0x05000000 = false := by decide
theorem test_ill_rsvz_of_configure : rsvzLegal 0x01010040 = false ∧ legalWord 0x01800000 = false := by decide
theorem test_ill_rsvz_of_format_z :
    rsvzLegal 0x02000001 = false ∧ legalWord 0x03800000 = false ∧ legalWord 0x04000001 = false := by decide
theorem test_legal_words : legalWord 0x0100FFFF = true ∧ legalWord 0x04000000 = true := by decide
theorem test_ill_lines :
    lineWellFormed (.setfs (2 ^ 32)) = false ∧ lineWellFormed (.configure 65536) = false ∧
    lineWellFormed (.push 32768) = false ∧ lineWellFormed (.push (-32769)) = false ∧
    lineWellFormed (.rdbin 65536) = false ∧ lineWellFormed (.rd .cmd) = false ∧
    lineWellFormed (.rd .sample) = false ∧ lineWellFormed (.rd (.bin 0)) = false ∧
    lineWellFormed (.cmdw (2 ^ 32)) = false := by decide

/-! ### The commands -/

/-- V15: CONFIGURE 128 with ARG_FS 2000 (here 8 and 2000) abandons the cycle. -/
theorem test_configure :
    look (fun t => (t.nsamp, t.fs, t.segcnt, t.sptr, t.bin == small.bin))
      (exec (.configure 8) { small with argFs := 2000, segcnt := 5 }) = some (8, 2000, 0, 0, true) := by decide

/-- V14: the count is tested before the frequency. -/
theorem test_configure_count_before_frequency :
    look (fun t => (t.fcode, t.finfo, t.nsamp)) (exec (.configure 0) bare) = some (2, 0x01000000, 0) := by decide

/-- V20: 0.125, 0, 0.25, 1.0. -/
theorem test_accumulate :
    look (fun t => (t.bin.take 5, t.segcnt, t.sptr)) (exec .accumulate small) =
      some ([0x3E000000, 0x00000000, 0x3E800000, 0x3F800000, 0x11111111], 1, 0) := by decide +kernel

/-- V47: at the largest count nothing is written. -/
theorem test_accumulate_overflow :
    look (fun t => (t.fcode, t.segcnt, t.bin == small.bin, t.sptr)) (exec .accumulate { small with segcnt := 0xFFFFFFFF }) =
      some (6, 0xFFFFFFFF, true, 4) := by decide

/-- P1, step 13: two segments, then the averages. -/
theorem test_getResult :
    look (fun t => (t.bin.take 5, t.segcnt)) (exec .getResult { small with segcnt := 2 }) =
      some ([0x3EA1CC64, 0x00000000, 0x3F21CC64, 0x4021CC64, 0x11111111], 0) := by decide +kernel

/-- V38: with SEGCNT = 0 every bin keeps its pattern. -/
theorem test_getResult_idle : look (fun t => t.bin == small.bin) (exec .getResult small) = some true := by decide

/-- V40: the four logical bins, and not the fifth; SEGCNT stays. -/
theorem test_clear :
    look (fun t => (t.bin.take 5, t.segcnt)) (exec .clear { small with segcnt := 2 }) =
      some ([0, 0, 0, 0, 0x11111111], 2) := by decide

/-- V42: a CLEAR keeps the pushes. -/
theorem test_clear_keeps_pushes : look (fun t => t.sptr) (exec .clear { small with sptr := 2 }) = some 2 := by decide

/-! ### The port -/

/-- V18: the upper half of the data is ignored. -/
theorem test_push :
    look (fun t => (t.answer, readSamp t 0, t.sptr)) (step (sending (.write 0x24 0xABCD8000) { small with sptr := 0 })) =
      some (some .ok, -32768, 1) := by decide

/-- V46: the fifth push. -/
theorem test_push_overrun :
    look (fun t => (t.answer, t.fcode, t.finfo, t.samp == small.samp)) (step (sending (.write 0x24 9) small)) =
      some (some .err, 7, 9, true) := by decide

/-- V49: STATUS while faulted, and a write refused. -/
theorem test_faulted_status :
    look (fun t => t.answer) (step (sending (.read 0x0C) { faulted with sptr := 3 })) =
      some (some (.okData 0x00000503)) := by decide

/-- V49b: the first reserved offset, and the first address past the BIN window. -/
theorem test_reserved_reads :
    look (fun t => t.answer) (step (sending (.read 0x30) small)) = some (some .err) ∧
    look (fun t => t.answer) (step (sending (.read 0x40020) small)) = some (some .err) ∧
    look (fun t => t.answer) (step (sending (.read 0x4001C) small)) = some (some (.okData 0x44444444)) := by decide

/-- P4, steps 12 and 13: reset leaves the Faulted state. -/
theorem test_reset :
    look (fun t => (statusWord t, t.finfo, t.argFs)) (step (sending .reset faulted)) = some (0, 0, 0) := by decide

/-! ### Arithmetic: the vectors of sections 4 and 5 -/

/-- V22, V23. -/
theorem test_mean : segmentMean 2 [-3, -4] = -3 ∧ segmentMean 4 [32767, -32768, -32768, -32768] = -16384 := by decide

/-- V26. -/
theorem test_power : binPower binary32 0 (f32OfNat 1000) (f32OfNat 64) 1 0x40400000 = 0x399374BC := by decide +kernel

/-- V29b: subnormal results. -/
theorem test_power_subnormal : binPower binary32 0 (f32OfNat 1000) (f32OfNat 64) 1 0x1E3CE508 = 0x00000002 := by decide +kernel

/-- V28, V28b: the square overflows, or just does not. -/
theorem test_square_overflow :
    f32Mul 0 0x5F800000 0x5F800000 = 0x7F800000 ∧ f32Mul 0 0x5F7FFFFF 0x5F7FFFFF = 0x7F7FFFFE := by decide +kernel

/-- The conversions of section 4.2, two ties among them. -/
theorem test_conversions :
    f32OfNat 16777217 = 0x4B800000 ∧ f32OfNat 16777219 = 0x4B800002 ∧ f32OfNat 4294967295 = 0x4F800000 ∧
    f32OfInt 49151 = 0x473FFF00 ∧ f32OfInt 0 = 0 := by decide +kernel

/-- Three additions of one power; the third rounds. -/
theorem test_add_rounds : f32Add 0 0x3A03126F 0x3983126F = 0x3A449BA6 := by decide +kernel

/-- V32, V37: a rounded average, and a correction that overflows. -/
theorem test_finalise :
    finalBin binary32 0 (f32OfNat 3) 0x4021CC64 0 0x3F800000 = 0x3F57BB30 ∧
    finalBin binary32 0 (f32OfNat 1) 0x4021CC64 0 0x7ED2A60A = 0x7F800000 := by decide +kernel

/-! ### Runs -/

/-- R248: a script of reads and a reset is successful; one with a bus error, or with a write that found the block faulted, is
not. -/
theorem test_scriptSuccessful :
    scriptSuccessful { small with pending := [.read 0x00, .reset, .read 0x04] } = true ∧
    scriptSuccessful { small with pending := [.read 0x30] } = false ∧
    scriptSuccessful { faulted with pending := [.write 0x10 0] } = false ∧
    answerGood (.cutWrite 0x08 0x02000000) none = false := by decide

/-! ### A command word placed by `withFetchWord` is the next step's command (log 1) -/

theorem test_withFetchWord_from_reset :
    look (fun t => (t.fcode, t.finfo)) (step (State.reset.withFetchWord 32 0x02000000)) =
      some (4, 0x02000000) := by decide

/-! ### Witnesses: for every statement with hypotheses, states and operands that meet them, at the ends of each range -/

/-- `small` with the backend whose every magnitude is 1.0. -/
def flat : State := { small with cfg := { small.cfg with backend := .const 0x3F800000 } }

/-- `small` with a segment of one sample, and with one of MAXN samples. -/
def shortest : State := { small with nsamp := 1, sptr := 1 }
def longest : State := { small with nsamp := 8, sptr := 8 }

/-- A cycle of two segments whose bins hold +0, infinity, a NaN and 1.0. -/
def special : State :=
  { small with segcnt := 2, bin := [0, 0x7F800000, 0x7FC00000, 0x3F800000, 0, 0, 0, 0] }

theorem witness_DecodeIsInverseOfEncode :
    (Instr.configure 0).wellFormed = true ∧ encode (.configure 0) = 0x01000000 ∧
    (Instr.configure 65535).wellFormed = true ∧ encode (.configure 65535) = 0x0100FFFF ∧
    Instr.clear.wellFormed = true ∧ encode .clear = 0x04000000 := by decide

theorem witness_WordEncodesRowExactlyOnMaskMatch :
    (∀ row ∈ opcodeMap, (0x01010000 : Word) &&& row.maskBits ≠ row.matchBits) ∧
    (∀ row ∈ opcodeMap, (0xFFFFFFFF : Word) &&& row.maskBits ≠ row.matchBits) := by decide

theorem witness_IllegalWordRaisesFaultOne :
    (sending (.write 0x08 0x00FFFFFF) small).pending = .write 0x08 0x00FFFFFF :: [] ∧ small.fcode = 0 ∧
    (0x00FFFFFF : Word).toNat / 2 ^ 24 = 0 ∧ 4 < (0x05000000 : Word).toNat / 2 ^ 24 ∧
    (0x01010000 : Word).toNat / 2 ^ 16 % 2 ^ 8 ≠ 0 ∧ (0x04000001 : Word).toNat % 2 ^ 24 ≠ 0 := by decide

theorem witness_StepRunsTheDecodedCommand :
    (sending (.write 0x08 0x02000000) small).pending = .write 0x08 0x02000000 :: [] ∧
    (sending (.write 0x08 0x02000000) small).fcode = 0 ∧ decode 0x02000000 = .ok .accumulate := by decide

theorem witness_IdlePortHoldsState : small.pending = [] := rfl

theorem witness_ConfigureWholeEffect_bad_count :
    (0 : BitVec 16).toNat = 0 ∧ small.cfg.maxn.toNat < (9 : BitVec 16).toNat := by decide

theorem witness_ConfigureWholeEffect_good_count :
    1 ≤ (1 : BitVec 16).toNat ∧ (8 : BitVec 16).toNat ≤ small.cfg.maxn.toNat ∧ bare.argFs = 0 ∧
    bare.cfg.maxn = small.cfg.maxn ∧ small.argFs ≠ 0 := by decide

theorem witness_ConfigureLeavesStaleBins :
    ∃ t, exec (.configure 8) small = .next t ∧ t.answer = some .ok := ⟨_, rfl, rfl⟩

theorem witness_ConfigureIsIdempotent_fault : ∃ t, exec (.configure 0) small = .next t := ⟨_, rfl⟩

theorem witness_SetfsStagesTheFrequency :
    (sending (.write 0x10 0) small).pending = .write 0x10 0 :: [] ∧ small.fcode = 0 ∧ faulted.fcode ≠ 0 ∧
    (sending (.write 0x10 0xFFFFFFFF) faulted).pending = .write 0x10 0xFFFFFFFF :: [] := by decide

theorem witness_SetfsStagesTheFrequency_exec : ∃ t, exec .clear small = .next t := ⟨_, rfl⟩

theorem witness_PushStoresOneSample :
    faulted.fcode ≠ 0 ∧ small.fcode = 0 ∧ small.sptr.toNat = small.nsamp.toNat ∧ bare.sptr.toNat = bare.nsamp.toNat ∧
    ({ small with sptr := 3 } : State).sptr.toNat ≠ small.nsamp.toNat ∧ (3 : BitVec 17).toNat < small.samp.length ∧
    ({ small with sptr := 0 } : State).sptr.toNat ≠ small.nsamp.toNat := by decide

theorem witness_AccumulateFaultsInOrder :
    bare.nsamp = 0 ∧ small.nsamp ≠ 0 ∧ ({ small with sptr := 3 } : State).sptr.toNat ≠ small.nsamp.toNat ∧
    small.sptr.toNat = small.nsamp.toNat ∧ ({ small with segcnt := 0xFFFFFFFF } : State).segcnt.toNat = 2 ^ 32 - 1 := by
  decide

/-- ACCUMULATE completes at the shortest and the longest segment, and at the last count below the maximum. -/
theorem witness_SegmentReady :
    SegmentReady small ∧ Fits small ∧ SegmentReady shortest ∧ Fits shortest ∧ SegmentReady longest ∧ Fits longest ∧
    SegmentReady { small with segcnt := 0xFFFFFFFE } := by decide

theorem witness_AccumulateAddsPowerToEveryBin : SegmentReady small ∧ Fits small ∧ small.segcnt = 0 := by decide

/-- An instance with another numerics record completes too. -/
def otherFormat : State := { small with cfg := { small.cfg with arithmetic := .other } }

theorem witness_AccumulateAddsPowerToEveryBin_other_format :
    SegmentReady otherFormat ∧ Fits otherFormat ∧ (∃ t, exec .accumulate otherFormat = .next t ∧ t.answer = some .ok) :=
  ⟨by decide, by decide, _, rfl, rfl⟩

theorem witness_BackendRequestsInSequence :
    ∃ t, (sending (.write 0x08 0x02000000) small).pending = .write 0x08 0x02000000 :: [] ∧
      step (sending (.write 0x08 0x02000000) small) = .next t ∧ t.beRequests ≠ [] := by
  refine ⟨_, rfl, rfl, ?_⟩
  decide

theorem witness_MagnitudesDependOnSegmentOnly :
    SegmentReady small ∧ SegmentReady special ∧ Fits special ∧ special.cfg = small.cfg ∧ special.nsamp = small.nsamp ∧
    (∀ k, k < small.nsamp.toNat → readSamp special k = readSamp small k) ∧ special.bin ≠ small.bin := by decide

theorem witness_LazyClearForgetsOldBins :
    SegmentReady small ∧ Fits small ∧ small.segcnt = 0 ∧ special.bin.length = small.maxn := by decide

theorem witness_MeanFitsASample :
    (1 ≤ 1 ∧ 1 ≤ [(-32768 : Sample)].length) ∧ 1 ≤ 65535 ∧ 65535 ≤ (List.replicate 65535 (-32768 : Sample)).length :=
  ⟨⟨by decide, by decide⟩, by decide, (List.length_replicate ..).ge⟩

theorem witness_DifferenceConvertsExactly : 1 ≤ 4 ∧ 4 ≤ small.samp.length ∧ 0 < 4 ∧ 3 < 4 := by decide

theorem witness_PowerIsDoubledAboveBinZero :
    1 ≤ 1 ∧ 4294967295 < 2 ^ 32 ∧ 1 ≤ 65535 ∧ 0 < 1 ∧ isNaN 0x3F800000 = false ∧ isNaN 0x7F800000 = false := by decide

/-- The three test backends that state a property have it: R206 is no empty premise. -/
theorem beZero_abs : BeZero (backendFunction .abs) := by
  intro n
  apply List.ext_getElem
  · simp [backendFunction, runBackend, backendSequence, serve, tabulate]
  · intro k h1 h2
    have hk : k < n := by simpa using h2
    simp [backendFunction, runBackend, backendSequence, serve, tabulate, magnitudeOf, hk, posZero, clearSign]

theorem beEven_const : BeEven (backendFunction (.const 0x3F800000)) := by
  intro n x i _ h1 h2
  have h3 : n - i < n := by omega
  simp [backendFunction, runBackend, backendSequence, serve, tabulate, magnitudeOf, h2, h3]

theorem witness_ConstantSegmentAddsNothing :
    ∃ s : State, UsesBinary32 s ∧ SegmentReady s ∧ Fits s ∧ s.fs ≠ 0 ∧ BeZero (backendFunction s.cfg.backend) ∧
      (∀ k, k < s.nsamp.toNat → readSamp s k = 7) ∧ s.segcnt ≠ 0 ∧ isNaN (readBin s 0) = false ∧
      readBin s 0 ≠ 0x80000000 :=
  ⟨{ small with samp := [7, 7, 7, 7, 9, 9, 9, 9], segcnt := 1 }, rfl, by decide, by decide, by decide, beZero_abs, by decide,
    by decide, by decide, by decide⟩

theorem witness_ConstantSegmentAddsNothing_first : small.segcnt = 0 ∧ 0 < small.nsamp.toNat := by decide

theorem witness_UpperHalfMirrorsLowerHalf :
    UsesBinary32 flat ∧ SegmentReady flat ∧ Fits flat ∧ flat.fs ≠ 0 ∧ flat.segcnt = 0 ∧ BeEven (backendFunction flat.cfg.backend) :=
  ⟨rfl, by decide, by decide, by decide, by decide, beEven_const⟩

theorem witness_UpperHalfMirrorsLowerHalf_bin :
    look (fun t => isNaN (readRe t 1)) (exec .accumulate flat) = some false := by decide +kernel

theorem witness_GetResultFinalisesEveryBin : special.segcnt ≠ 0 ∧ Fits special ∧ Fits longest := by decide

theorem witness_GetResultIdleIsNoOp : small.segcnt = 0 := rfl

/-- At 1.0, +0, the least and the greatest subnormal, and the greatest pattern whose double is finite. -/
theorem witness_HalfOfDoubledPowerIsThePower :
    (isFinite 0x3F800000 = true ∧ signBit 0x3F800000 = false ∧ isFinite (f32Add 0 0x3F800000 0x3F800000) = true) ∧
    (isFinite 0x00000000 = true ∧ signBit 0x00000000 = false ∧ isFinite (f32Add 0 0x00000000 0x00000000) = true) ∧
    (isFinite 0x00000001 = true ∧ signBit 0x00000001 = false ∧ isFinite (f32Add 0 0x00000001 0x00000001) = true) ∧
    (isFinite 0x007FFFFF = true ∧ signBit 0x007FFFFF = false ∧ isFinite (f32Add 0 0x007FFFFF 0x007FFFFF) = true) ∧
    (isFinite 0x7EFFFFFF = true ∧ signBit 0x7EFFFFFF = false ∧ isFinite (f32Add 0 0x7EFFFFFF 0x7EFFFFFF) = true) := by
  decide +kernel

/-- A block of capacity 1 that has one sample of its one-sample segment, every magnitude 1.0. -/
def tiny : State :=
  { small with
    cfg := { maxn := 1, beMaxn := 1, corr2 := 0x4021CC64, backend := .const 0x3F800000
             arithmetic := .binary32 }
    nsamp := 1, sptr := 1, bin := [0x11111111], re := [0], im := [0], samp := [5] }

theorem witness_TwoEqualSegmentsGiveTheSingleResult :
    UsesBinary32 tiny ∧ tiny.cfg.Legal ∧ SegmentReady tiny ∧ Fits tiny ∧ tiny.fs ≠ 0 ∧ tiny.segcnt = 0 ∧ 0 < tiny.nsamp.toNat := by decide

/-- The magnitude is no NaN, and the sum of the two powers is finite. -/
theorem witness_TwoEqualSegmentsGiveTheSingleResult_bin :
    look (fun t => (isNaN (readRe t 0), look (fun u => isFinite (readBin u 0))
      (exec .accumulate { t with sptr := tiny.sptr }))) (exec .accumulate tiny) = some (false, some true) := by
  decide +kernel

theorem witness_GetResultAfterClearGivesZeros : UsesBinary32 special ∧ special.cfg.Legal ∧ special.segcnt ≠ 0 ∧ Fits special := by decide

theorem witness_FinalisationKeepsSpecialValues :
    UsesBinary32 special ∧ special.cfg.Legal ∧ special.segcnt ≠ 0 ∧ Fits special ∧ readBin special 0 = 0 ∧ readBin special 1 = 0x7F800000 ∧
    isNaN (readBin special 2) = true ∧ sumShaped (readBin special 3) = true := by decide

theorem witness_ClearZeroesLogicalBins : Fits small ∧ Fits bare ∧ Fits longest := by decide

theorem witness_ClearIsIdempotent : bare.nsamp = 0 := rfl

theorem witness_HostReadAnswersTheMap :
    (sending (.read 0x40000) small).pending = .read 0x40000 :: [] ∧
    (sending (.read 0x7FFFF) faulted).pending = .read 0x7FFFF :: [] := by decide

theorem witness_BusErrorsAreExactlyTheSixCases :
    isReset (.oddWidth .bits8 true 0x08) = false ∧ isReset (.read 0x30) = false ∧ isReset (.write 0x0C 0) = false ∧
    (∃ t, step (sending (.oddWidth .bits8 true 0x08) small) = .next t ∧ t.answer = some .err) ∧
    (∃ t, step (sending (.read 0x3FFFC) small) = .next t ∧ t.answer = some .err) ∧
    (∃ t, step (sending (.write 0x09 0) small) = .next t ∧ t.answer = some .err) ∧
    (∃ t, step (sending (.write 0x10 0) faulted) = .next t ∧ t.answer = some .err) :=
  ⟨rfl, rfl, rfl, ⟨_, rfl, rfl⟩, ⟨_, rfl, rfl⟩, ⟨_, rfl, rfl⟩, ⟨_, rfl, rfl⟩⟩

theorem witness_ScriptLinesAreTheirTransactions :
    lineWellFormed (.setfs 0) = true ∧ lineWellFormed (.setfs 4294967295) = true ∧
    lineWellFormed (.configure 0) = true ∧ lineWellFormed (.configure 65535) = true ∧
    lineWellFormed (.push (-32768)) = true ∧ lineWellFormed (.push 32767) = true ∧
    lineWellFormed (.rdbin 0) = true ∧ lineWellFormed (.rdbin 65535) = true ∧ lineWellFormed (.rd .id) = true ∧
    lineWellFormed (.rd .finfo) = true ∧ lineWellFormed (.cmdw 0) = true ∧ lineWellFormed (.cmdw 4294967295) = true := by
  decide

/-- One transaction for each of the seven codes, and the code it records. -/
theorem witness_FaultCodesAreExactlyTheTable :
    look (fun t => t.fcode) (step (sending (.write 0x08 0) small)) = some 1 ∧
    look (fun t => t.fcode) (step (sending (.write 0x08 0x01000009) small)) = some 2 ∧
    look (fun t => t.fcode) (step (sending (.write 0x08 0x01000008) bare)) = some 3 ∧
    look (fun t => t.fcode) (step (sending (.write 0x08 0x02000000) bare)) = some 4 ∧
    look (fun t => t.fcode) (step (sending (.write 0x08 0x02000000) { small with sptr := 3 })) = some 5 ∧
    look (fun t => t.fcode) (step (sending (.write 0x08 0x02000000) { small with segcnt := 0xFFFFFFFF })) = some 6 ∧
    look (fun t => t.fcode) (step (sending (.write 0x24 0) bare)) = some 7 ∧
    look (fun t => t.fcode) (step (sending (.write 0x24 0) { small with sptr := 3 })) = some 0 ∧ small.finfo = 0 := by decide

theorem witness_ContractFaultIsPrecise :
    ∃ t, step (sending (.write 0x24 0) small) = .next t ∧ small.fcode = 0 ∧ t.fcode ≠ 0 := ⟨_, rfl, rfl, by decide⟩

theorem witness_BehaviourWhileFaulted :
    faulted.fcode ≠ 0 ∧ (sending (.write 0x08 0x04000000) faulted).pending = .write 0x08 0x04000000 :: [] ∧
    (sending (.read 0x0C) faulted).pending = .read 0x0C :: [] ∧
    (sending (.read 0x40000) faulted).pending = .read 0x40000 :: [] := by decide

theorem witness_FaultedStateIsAbsorbing :
    ∃ s t : State, s.fcode ≠ 0 ∧ s.pending ≠ [] ∧ (∀ u ∈ s.pending, isReset u = false) ∧ afterSteps 2 s = .next t :=
  ⟨{ faulted with pending := [.write 0x10 1, .read 0x0C] }, _, by decide, by decide, by decide, rfl⟩

theorem witness_ResetReturnsToIdle : (sending .reset faulted).pending = .reset :: [] := rfl

theorem witness_CutWriteLeavesTheResetState :
    (sending (.cutWrite 0x08 0x02000000) small).pending = .cutWrite 0x08 0x02000000 :: [] := rfl

/-- The invariant is met, and by states in the middle of a cycle and in the Faulted state too. -/
theorem witness_EveryStepKeepsTheInvariant :
    Inv small ∧ Inv { special with bin := [0, 0x7F800000, 0x7FC00000, 0x3F800000, 0x80000000, 0, 0, 0] } ∧ Inv faulted ∧
    ∃ t, step (sending (.write 0x08 0x02000000) small) = .next t :=
  ⟨by decide, by decide, by decide, _, rfl⟩

theorem witness_PhaseTransitionTable :
    (∃ t, exec (.configure 1) small = .next t ∧ t.answer = some .ok) ∧
    (∃ t, exec .accumulate small = .next t ∧ t.answer = some .ok) ∧
    (∃ t, exec .getResult special = .next t ∧ t.answer = some .ok) ∧
    (∃ t, exec .clear special = .next t ∧ t.answer = some .ok) :=
  ⟨⟨_, rfl, rfl⟩, ⟨_, rfl, rfl⟩, ⟨_, rfl, rfl⟩, ⟨_, rfl, rfl⟩⟩

theorem witness_ConfiguredUntilReset :
    ∃ t, step (sending (.write 0x08 0x01000001) small) = .next t ∧ small.nsamp ≠ 0 ∧
      isReset (.write 0x08 0x01000001) = false := ⟨_, rfl, by decide, rfl⟩

/-- Each clause's premise is met by some step. -/
theorem witness_WritersOfEachElement :
    look (fun t => decide (t.nsamp ≠ small.nsamp)) (step (sending (.write 0x08 0x01000001) small)) = some true ∧
    look (fun t => decide (t.argFs ≠ small.argFs)) (step (sending (.write 0x10 1) small)) = some true ∧
    look (fun t => decide (t.segcnt ≠ small.segcnt ∧ t.sptr ≠ small.sptr)) (step (sending (.write 0x08 0x02000000) small))
      = some true ∧
    look (fun t => decide (readBin t 3 ≠ readBin small 3)) (step (sending (.write 0x08 0x04000000) small)) = some true ∧
    look (fun t => decide (readSamp t 0 ≠ readSamp small 0)) (step (sending (.write 0x24 5) { small with sptr := 0 }))
      = some true ∧
    look (fun t => decide (t.fcode ≠ small.fcode)) (step (sending (.write 0x24 5) small)) = some true ∧
    look (fun t => decide (readRe t 0 ≠ readRe small 0)) (step (sending (.write 0x08 0x02000000) small)) = some true := by
  decide +kernel

theorem witness_RoundingIsToNearestEven :
    0 < 3 ∧ isFinite (rnd32 false 1 3) = true ∧ isFinite 0x3EAAAAAA = true ∧ signBit 0x3EAAAAAA = false := by
  decide +kernel

theorem witness_RoundingKeepsRepresentable : isFinite 0x80000001 = true ∧ isFinite 0x7F7FFFFF = true := by decide

theorem witness_OverflowThreshold : 0 < 1 := by decide

theorem witness_ConversionOfCounts : 0 < 2 ^ 24 ∧ 2 ^ 24 - 1 < 2 ^ 24 ∧ 1 ≤ 1 ∧ 4294967295 < 2 ^ 32 := by decide

theorem witness_SpecialValuesOfThePrimitives :
    isNaN 0xFFC00001 = true ∧ isZero 0x80000000 = true ∧ isInf 0xFF800000 = true ∧ isFinite 0x00000001 = true ∧
    isZero 0x00000001 = false := by decide

theorem witness_DrawnPatternsAreTheNaNs : isNaN 0x7F800001 = true ∧ isNaN 0xFFFFFFFF = true := by decide

end Sys2Proof.Machine
end

section
/-! PROOFS. The writers of each state element (10_state.md rule R50): each transaction without a reset writes only what R50
lists for it, and a step is one such transaction or a contract-fault entry. -/

namespace Sys2Proof.Machine

@[simp] theorem readBin_answerOk (s : State) (i : Nat) : readBin (answerOk s) i = readBin s i := rfl

theorem faultCode_ne_zero (c : FaultCause) : faultCode c ≠ 0 := by cases c <;> decide

/-- PUSH writes no sample but SAMP[SPTR] (R135). -/
theorem readSamp_storeSample_of_ne (data : Word) {s : State} {k : Nat} (hk : k ≠ s.sptr.toNat) :
    readSamp (storeSample data s) k = readSamp s k := by
  simp [readSamp, List.getElem?_set_ne hk.symm]

/-- R50 for one transaction `u` that takes the block from `s` to `t`, a field for each row of its table. By default a field
is proved from the frame: an element that holds what it held needs no writer. -/
structure WritesAsListed (u : Txn) (s t : State) : Prop where
  config : (t.nsamp ≠ s.nsamp ∨ t.fs ≠ s.fs) →
    ∃ c : BitVec 16, u = .write 0x08 (0x01000000 ||| c.setWidth 32) := by simp
  argFs : t.argFs ≠ s.argFs → ∃ data, u = .write 0x10 data := by simp
  segcnt : t.segcnt ≠ s.segcnt →
    ((∃ c : BitVec 16, u = .write 0x08 (0x01000000 ||| c.setWidth 32)) ∧ t.segcnt = 0) ∨
    (u = .write 0x08 0x02000000 ∧ t.segcnt = s.segcnt + 1) ∨ (u = .write 0x08 0x03000000 ∧ t.segcnt = 0) := by simp
  bin : ∀ i, readBin t i ≠ readBin s i → i < s.nsamp.toNat ∧
    (u = .write 0x08 0x02000000 ∨ (u = .write 0x08 0x03000000 ∧ s.segcnt ≠ 0) ∨ u = .write 0x08 0x04000000) := by
      simp [readBin]
  buffers : (t.re ≠ s.re ∨ t.im ≠ s.im) → u = .write 0x08 0x02000000 := by simp
  samp : ∀ k, readSamp t k ≠ readSamp s k → k = s.sptr.toNat ∧ ∃ data, u = .write 0x24 data := by simp [readSamp]
  sptr : t.sptr ≠ s.sptr →
    ((∃ data, u = .write 0x24 data) ∧ t.sptr = s.sptr + 1) ∨ (u = .write 0x08 0x02000000 ∧ t.sptr = 0) ∨
    ((∃ c : BitVec 16, u = .write 0x08 (0x01000000 ||| c.setWidth 32)) ∧ t.sptr = 0) := by simp
  fault : (t.fcode ≠ s.fcode ∨ t.finfo ≠ s.finfo) → s.fcode = 0 ∧ t.fcode ≠ 0 := by simp

theorem writesAsListed_answerOk (u : Txn) (s : State) : WritesAsListed u s (answerOk s) where

theorem writesAsListed_busError (u : Txn) (s : State) : WritesAsListed u s (busError s) where

theorem writesAsListed_hostRead (u : Txn) (a : PortAddr) (s : State) : WritesAsListed u s (hostRead a s) where

theorem writesAsListed_raiseFault {s : State} (hf : s.fcode = 0) (u : Txn) (c : FaultCause) (w : Word) :
    WritesAsListed u s (raiseFault c w s) where
  fault := fun _ => ⟨hf, faultCode_ne_zero c⟩

theorem writesAsListed_setArgFs (data : Word) (s : State) :
    WritesAsListed (.write 0x10 data) s (answerOk (setArgFs data s)) where
  argFs := fun _ => ⟨data, rfl⟩

theorem writesAsListed_storeSample (data : Word) (s : State) :
    WritesAsListed (.write 0x24 data) s (answerOk (storeSample data s)) where
  samp := fun _ hne => ⟨by_contra fun hk => hne (readSamp_storeSample_of_ne data hk), data, rfl⟩
  sptr := fun _ => .inl ⟨⟨data, rfl⟩, rfl⟩

theorem writesAsListed_push {s : State} (hf : s.fcode = 0) (data : Word) :
    WritesAsListed (.write 0x24 data) s (push data s) := by
  rcases push_cases data s with ⟨-, h⟩ | ⟨-, h⟩ <;> rw [h]
  · exact writesAsListed_raiseFault hf ..
  · exact writesAsListed_storeSample data s

theorem writesAsListed_applyConfig (c : BitVec 16) (s : State) :
    WritesAsListed (.write 0x08 (encode (.configure c))) s (answerOk (applyConfig c s)) :=
  have hu : ∃ c' : BitVec 16, Txn.write 0x08 (encode (.configure c)) = .write 0x08 (0x01000000 ||| c'.setWidth 32) :=
    ⟨c, by rw [encode_configure_or]⟩
  { config := fun _ => hu
    segcnt := fun _ => .inl ⟨hu, rfl⟩
    sptr := fun _ => .inr (.inr ⟨hu, rfl⟩) }

theorem writesAsListed_accumulateSegment (s : State) :
    WritesAsListed (.write 0x08 (encode .accumulate)) s (answerOk (accumulateSegment s)) where
  segcnt := fun _ => .inr (.inl ⟨rfl, rfl⟩)
  bin := fun i hne =>
    ⟨Nat.lt_of_not_le fun hi => hne ((readBin_answerOk _ i).trans (readBin_accumulateSegment_above hi)), .inl rfl⟩
  buffers := fun _ => rfl
  sptr := fun _ => .inr (.inl ⟨rfl, rfl⟩)

theorem writesAsListed_finalizeBins {s : State} (hn : s.segcnt ≠ 0) :
    WritesAsListed (.write 0x08 (encode .getResult)) s (answerOk (finalizeBins s)) where
  segcnt := fun _ => .inr (.inr ⟨rfl, rfl⟩)
  bin := fun i hne =>
    ⟨Nat.lt_of_not_le fun hi => hne ((readBin_answerOk _ i).trans (readBin_finalizeBins_above hi)),
      .inr (.inl ⟨rfl, hn⟩)⟩

theorem writesAsListed_clearBins (s : State) :
    WritesAsListed (.write 0x08 (encode .clear)) s (answerOk { s with bin := clearBins s.nsamp.toNat s.bin }) where
  bin := fun _ hne => ⟨Nat.lt_of_not_le fun hi => hne (clearBins_above hi), .inr (.inr rfl)⟩

/-- A command writes what R50 lists for it, whether it completes or enters a contract fault. -/
theorem writesAsListed_exec {s t : State} (hf : s.fcode = 0) (i : Instr) (h : exec i s = .next t) :
    WritesAsListed (.write 0x08 (encode i)) s t := by
  cases i with
  | configure c =>
    rcases exec_configure_cases c s with ⟨-, he⟩ | ⟨-, -, he⟩ | ⟨-, -, he⟩ <;> cases he.symm.trans h
    · exact writesAsListed_raiseFault hf ..
    · exact writesAsListed_raiseFault hf ..
    · exact writesAsListed_applyConfig c s
  | accumulate =>
    rcases exec_accumulate_cases s with ⟨-, he⟩ | ⟨-, -, he⟩ | ⟨-, -, -, he⟩ | ⟨-, -, -, he⟩ <;> cases he.symm.trans h
    · exact writesAsListed_raiseFault hf ..
    · exact writesAsListed_raiseFault hf ..
    · exact writesAsListed_raiseFault hf ..
    · exact writesAsListed_accumulateSegment s
  | getResult =>
    rcases exec_getResult_cases s with ⟨-, he⟩ | ⟨hn, he⟩ <;> cases he.symm.trans h
    · exact writesAsListed_answerOk ..
    · exact writesAsListed_finalizeBins hn
  | clear =>
    cases (exec_clear s).symm.trans h
    exact writesAsListed_clearBins s

/-- A step that asserts no reset writes what R50 lists for its transaction. -/
theorem writesAsListed_step {s t : State} {u : Txn} {rest : List Txn} (hp : s.pending = u :: rest)
    (hr : isReset u = false) (h : step s = .next t) : WritesAsListed u (accept rest s) t := by
  rcases step_cases hp hr h with
    ⟨rfl, -⟩ | ⟨a, -, rfl⟩ | ⟨-, d, rfl, rfl⟩ | ⟨hf, d, rfl, rfl⟩ | ⟨hf, w, -, -, rfl⟩ | ⟨hf, i, rfl, he⟩
  · exact writesAsListed_busError u _
  · exact writesAsListed_hostRead u a _
  · exact writesAsListed_setArgFs d _
  · exact writesAsListed_push (s := accept rest s) hf d
  · exact writesAsListed_raiseFault (s := accept rest s) hf ..
  · exact writesAsListed_exec (s := accept rest s) hf i he

/-- Settles O47: by cases on the transaction; accepting it writes no state element of the spec. -/
theorem writersOfEachElement : Obligations.WritersOfEachElement := by
  intro s t u rest hp hr h
  obtain ⟨config, argFs, segcnt, bin, buffers, samp, sptr, fault⟩ := writesAsListed_step hp hr h
  exact ⟨config, argFs, segcnt, bin, buffers, samp, sptr, fault⟩

end Sys2Proof.Machine
end

section
/-! PROOFS. The reads of the host port (20_memory.md rules R60 to R62): where the register map sends an address, and what
the step of a read changes. -/

namespace Sys2Proof.Machine

/-! ### The register at an address, by region of the map (R61, R64) -/

theorem regAt_misaligned (maxn : Nat) {addr : PortAddr} (hmis : addr.toNat % 4 ≠ 0) : regAt maxn addr = none :=
  if_pos hmis

/-- The offsets of the control and status registers are aligned and lie below the BIN window. -/
theorem regMap_offsets : ∀ a ∈ regMap.map Prod.fst, a % 4 = 0 ∧ a < binBase := by decide

theorem mem_regMap_offsets {a : Nat} : a ∈ regMap.map Prod.fst ↔
    a = 0x00 ∨ a = 0x04 ∨ a = 0x08 ∨ a = 0x0C ∨ a = 0x10 ∨ a = 0x14 ∨ a = 0x18 ∨ a = 0x1C ∨ a = 0x20 ∨ a = 0x24 ∨
    a = 0x28 ∨ a = 0x2C := by simp [regMap]

theorem regMap_lookup_unlisted {a : Nat} (ha : a ∉ regMap.map Prod.fst) : regMap.lookup a = none :=
  List.lookup_eq_none_iff.2 fun p hp => by
    have hne : a ≠ p.1 := fun h => ha (h ▸ List.mem_map_of_mem hp)
    simpa using hne

theorem regAt_listed (maxn : Nat) {addr : PortAddr} (hreg : addr.toNat ∈ regMap.map Prod.fst) :
    regAt maxn addr = regMap.lookup addr.toNat := by
  obtain ⟨hal, hlow⟩ := regMap_offsets _ hreg
  simp [regAt, hal, hlow]

/-- An aligned address in the BIN window is the entry for its word. -/
theorem regAt_window {maxn : Nat} {addr : PortAddr} (hal : addr.toNat % 4 = 0)
    (hwin : binBase ≤ addr.toNat ∧ addr.toNat < binBase + 4 * maxn) :
    regAt maxn addr = some (.bin ((addr.toNat - binBase) / 4)) := by
  have hslot : (addr.toNat - binBase) / 4 < maxn := by omega
  simp [regAt, hal, Nat.not_lt.2 hwin.1, hslot]

/-- Nothing lies between the registers and the window, or above the window. -/
theorem regAt_reserved {maxn : Nat} {addr : PortAddr} (hreg : addr.toNat ∉ regMap.map Prod.fst)
    (hwin : ¬ (binBase ≤ addr.toNat ∧ addr.toNat < binBase + 4 * maxn)) : regAt maxn addr = none := by
  have hslot : ¬ addr.toNat < binBase → ¬ (addr.toNat - binBase) / 4 < maxn := by omega
  simp +contextual [regAt, regMap_lookup_unlisted hreg, hslot]

/-! ### The step of a read -/

@[simp] theorem readReg_accept (rest : List Txn) (s : State) : readReg (accept rest s) = readReg s := by
  funext r; cases r <;> rfl

/-- A read is taken from the list and answered; nothing else changes, faulted or not (R62, R67). -/
theorem step_read {s : State} {addr : PortAddr} {rest : List Txn} (hp : s.pending = .read addr :: rest) :
    step s = .next { s with
      pending := rest, beRequests := []
      answer := some (readAnswer ((regAt s.maxn addr).bind (readReg s))) } := by
  rw [step_cons hp, ← readReg_accept rest s]
  rfl

/-- Settles O32: an address is misaligned, or the offset of one of the twelve registers, or in the BIN window or reserved. -/
theorem hostReadAnswersTheMap : Obligations.HostReadAnswersTheMap := by
  intro s addr rest hp
  rw [step_read hp]
  dsimp only
  by_cases hal : addr.toNat % 4 = 0
  case neg => rw [regAt_misaligned s.maxn hal, if_pos hal]; rfl
  rw [if_neg (not_not.2 hal)]
  by_cases hreg : addr.toNat ∈ regMap.map Prod.fst
  · rw [regAt_listed s.maxn hreg]
    rcases mem_regMap_offsets.1 hreg with h | h | h | h | h | h | h | h | h | h | h | h <;>
      simp [h, regMap, List.lookup_cons, readReg, readAnswer]
  · have hunlisted := mem_regMap_offsets.not.1 hreg
    simp only [not_or] at hunlisted
    simp only [hunlisted, if_false]
    by_cases hwin : 0x40000 ≤ addr.toNat ∧ addr.toNat < 0x40000 + 4 * s.cfg.maxn.toNat
    · rw [regAt_window (maxn := s.maxn) hal hwin, if_pos hwin]; rfl
    · rw [regAt_reserved (maxn := s.maxn) hreg hwin, if_neg hwin]; rfl

end Sys2Proof.Machine
end

section
/-! PROOFS. The opcode map and the illegal words (30_encoding.md rules R92 and R99): a row's match, read as numbers, is what
the decoder tests, and an illegal word written to CMD is contract fault 1. -/

namespace Sys2Proof

/-- The illegal words, as numbers (R99): the op is none of the four, or a must-be-zero bit of its format is 1. -/
theorem legalWord_eq_false_iff (w : Word) :
    legalWord w = false ↔
      (w.toNat / 2 ^ 24 = 0 ∨ 4 < w.toNat / 2 ^ 24) ∨
      (w.toNat / 2 ^ 24 = 1 ∧ w.toNat / 2 ^ 16 % 2 ^ 8 ≠ 0) ∨
      (2 ≤ w.toNat / 2 ^ 24 ∧ w.toNat / 2 ^ 24 ≤ 4 ∧ w.toNat % 2 ^ 24 ≠ 0) := by
  rw [← Bool.not_eq_true, legalWord_iff]
  omega

/-- The mask of the CONFIGURE row leaves the upper half of the word. -/
theorem and_configureMask_eq_iff (w : Word) : w &&& 0xFFFF0000 = 0x01000000 ↔ w.toNat / 0x10000 = 0x100 := by
  have hhigh : w &&& (0xFFFF0000 : Word) = w >>> 16 <<< 16 := (BitVec.shiftLeft_ushiftRight (x := w) (n := 16)).symm
  have hnum : (w >>> 16 <<< 16).toNat = w.toNat / 0x10000 * 0x10000 % 2 ^ 32 := by
    simp [Nat.shiftLeft_eq, Nat.shiftRight_eq_div_pow]
  have hlt := w.isLt
  rw [hhigh, ← BitVec.toNat_inj, hnum, show (0x01000000 : Word).toNat = 0x01000000 from rfl]
  omega

/-- The mask of the other three rows leaves the word. -/
theorem and_fullMask (w : Word) : w &&& 0xFFFFFFFF = w := BitVec.and_allOnes

/-- The words of each mnemonic, as numbers: CONFIGURE has 65536 of them, the other commands one each (R92). -/
theorem decodes_to_mnemonic_iff (w : Word) (m : String) :
    (∃ i, decode w = .ok i ∧ i.mnemonic = m) ↔
      (w.toNat / 0x10000 = 0x100 ∧ "CONFIGURE" = m) ∨ (w.toNat = 0x02000000 ∧ "ACCUMULATE" = m) ∨
      (w.toNat = 0x03000000 ∧ "GETRESULT" = m) ∨ (w.toNat = 0x04000000 ∧ "CLEAR" = m) := by
  rcases decode_cases w with ⟨hop, hz, hd⟩ | ⟨hw, hd⟩ | ⟨hw, hd⟩ | ⟨hw, hd⟩ | ⟨hl, e, hd⟩
  · have hhigh : w.toNat / 0x10000 = 0x100 := by omega
    have hne : w.toNat ≠ 0x02000000 ∧ w.toNat ≠ 0x03000000 ∧ w.toNat ≠ 0x04000000 := by omega
    simp [hd, hhigh, hne, Instr.mnemonic]
  · simp [hd, hw, Instr.mnemonic]
  · simp [hd, hw, Instr.mnemonic]
  · simp [hd, hw, Instr.mnemonic]
  · rw [legalWord_eq_false_iff] at hl
    have hne : w.toNat / 0x10000 ≠ 0x100 ∧ w.toNat ≠ 0x02000000 ∧ w.toNat ≠ 0x03000000 ∧ w.toNat ≠ 0x04000000 := by
      omega
    simp [hd, hne]

/-- A word decodes to a row's command exactly when it matches the row (R92). -/
theorem decodes_to_row_iff (w : Word) {row : OpcodeRow} (hrow : row ∈ opcodeMap) :
    (∃ i, decode w = .ok i ∧ i.mnemonic = row.mnemonic) ↔ w &&& row.maskBits = row.matchBits := by
  rw [decodes_to_mnemonic_iff]
  simp only [opcodeMap, List.mem_cons, List.not_mem_nil, or_false] at hrow
  rcases hrow with rfl | rfl | rfl | rfl
  · simpa using (and_configureMask_eq_iff w).symm
  all_goals
    rw [and_fullMask, ← BitVec.toNat_inj]
    simp

/-- Every instruction has its row. -/
theorem exists_row (i : Instr) : ∃ row ∈ opcodeMap, i.mnemonic = row.mnemonic := by
  cases i <;> simp [opcodeMap, Instr.mnemonic]

/-- Settles O2: a word that decodes matches the row of its instruction, so a word that matches none does not decode. -/
theorem wordEncodesRowExactlyOnMaskMatch : Obligations.WordEncodesRowExactlyOnMaskMatch := by
  refine ⟨rfl, fun w row hrow => decodes_to_row_iff w hrow, fun w hnone => ?_⟩
  cases hd : decode w with
  | error e => exact ⟨e, rfl⟩
  | ok i =>
    obtain ⟨row, hrow, hm⟩ := exists_row i
    exact absurd ((decodes_to_row_iff w hrow).1 ⟨i, hd, hm⟩) (hnone row hrow)

namespace Machine

/-- A write to CMD in an unfaulted state performs `Command(w)` (R63). -/
theorem step_cmd {s : State} {w : Word} {rest : List Txn} (hp : s.pending = .write 0x08 w :: rest) (hf : s.fcode = 0) :
    step s = command w (accept rest s) := by
  refine (step_cons hp).trans ?_
  rcases hostWrite_cases 0x08 w (accept rest s) with ⟨h, -⟩ | ⟨-, -, h⟩ | ⟨-, haddr, -⟩ | ⟨-, haddr, -⟩
  · simp [hf] at h
  · exact h
  · cases haddr
  · cases haddr

/-- An illegal word enters contract fault 1 and performs nothing else (R99). -/
theorem command_illegal {w : Word} (hl : legalWord w = false) (s : State) :
    command w s = .next (raiseFault .illegalCmd w s) := by
  rcases command_cases w s with ⟨hlegal, -⟩ | ⟨-, h⟩
  · simp [hl] at hlegal
  · exact h

/-- Settles O3: the write reaches `Command(w)`, which raises the fault; R99's two checks are compared as numbers. -/
theorem illegalWordRaisesFaultOne : Obligations.IllegalWordRaisesFaultOne := by
  refine fun w => ⟨legalWord_eq_false_iff w, fun hill s rest hp hf => ?_⟩
  rw [step_cmd hp hf, command_illegal ((legalWord_eq_false_iff w).2 hill)]
  rfl

end Machine
end Sys2Proof
end

section
/-! PROOFS. CONFIGURE and SETFS (40_configure.md rules R120 and R121): the two outcomes of a write to ARG_FS, ARG_FS under the
commands, and what CONFIGURE leaves in the flags. -/

namespace Sys2Proof.Machine

/-! ### The flags after CONFIGURE (R29) -/

theorem flagReady_iff (s : State) : flagReady s = true ↔ s.nsamp ≠ 0 ∧ s.sptr.toNat = s.nsamp.toNat := by
  simp [flagReady, segmentFull_iff]

@[simp] theorem flagConfigured_applyConfig (c : BitVec 16) (s : State) :
    flagConfigured (applyConfig c s) = (c != 0) := rfl

@[simp] theorem flagPending_applyConfig (c : BitVec 16) (s : State) : flagPending (applyConfig c s) = false := rfl

/-- No sample is delivered yet, so no segment of one sample or more is whole. -/
@[simp] theorem flagReady_applyConfig (c : BitVec 16) (s : State) : flagReady (applyConfig c s) = false := by
  rw [← Bool.not_eq_true, flagReady_iff]
  rintro ⟨hne, hfull⟩
  exact hne (BitVec.eq_of_toNat_eq hfull.symm)

/-- Settles O8: each outcome of CONFIGURE meets the premises of one clause and contradicts those of the other two. -/
theorem configureWholeEffect : Obligations.ConfigureWholeEffect := by
  intro count s
  have hzero : count = 0 ↔ count.toNat = 0 := BitVec.toNat_inj.symm
  have hmaxn : s.cfg.maxn.toNat = s.maxn := rfl
  rw [hmaxn, ← encode_configure_or]
  rcases exec_configure_cases count s with ⟨hbad, he⟩ | ⟨⟨hne, hle⟩, hfs, he⟩ | ⟨⟨hne, hle⟩, hfs, he⟩
  · rw [hzero] at hbad
    exact ⟨fun _ => he, fun _ _ => by omega, fun _ _ => by omega⟩
  · rw [Ne, hzero] at hne
    exact ⟨fun _ => by omega, fun _ _ _ => he, fun _ _ h => absurd hfs h⟩
  · refine ⟨fun h => ?_, fun _ _ h => absurd h hfs, fun _ _ _ => ⟨_, he, rfl, ?_, ?_, ?_⟩⟩
    · rw [Ne, hzero] at hne
      omega
    · exact (flagConfigured_applyConfig count s).trans (bne_iff_ne.2 hne)
    · exact flagPending_applyConfig count s
    · exact flagReady_applyConfig count s

/-! ### A write in either condition, and ARG_FS -/

/-- While faulted a write to any address is refused and changes nothing (R63, R222). -/
theorem step_write_faulted {s : State} {addr : PortAddr} {data : Word} {rest : List Txn}
    (hp : s.pending = .write addr data :: rest) (hf : s.fcode ≠ 0) :
    step s = .next (busError (accept rest s)) := by
  refine (step_cons hp).trans ?_
  rcases hostWrite_cases addr data (accept rest s) with ⟨-, h⟩ | ⟨h0, -⟩ | ⟨h0, -⟩ | ⟨h0, -⟩
  · exact h
  all_goals exact absurd h0 hf

/-- SETFS in an unfaulted state stores any value (R120). -/
theorem step_setfs {s : State} {data : Word} {rest : List Txn} (hp : s.pending = .write 0x10 data :: rest)
    (hf : s.fcode = 0) : step s = .next (answerOk (setArgFs data (accept rest s))) := by
  refine (step_cons hp).trans ?_
  rcases hostWrite_cases 0x10 data (accept rest s) with ⟨h, -⟩ | ⟨-, haddr, -⟩ | ⟨-, -, h⟩ | ⟨-, haddr, -⟩
  · simp [hf] at h
  · cases haddr
  · exact h
  · cases haddr

/-- A command leaves ARG_FS, whether it completes or enters a contract fault (R50, R120). -/
theorem exec_argFs {i : Instr} {s t : State} (h : exec i s = .next t) : t.argFs = s.argFs := by
  cases i with
  | configure c =>
    rcases exec_configure_cases c s with ⟨-, he⟩ | ⟨-, -, he⟩ | ⟨-, -, he⟩ <;> cases he.symm.trans h <;> simp
  | accumulate =>
    rcases exec_accumulate_cases s with ⟨-, he⟩ | ⟨-, -, he⟩ | ⟨-, -, -, he⟩ | ⟨-, -, -, he⟩ <;>
      cases he.symm.trans h <;> simp
  | getResult =>
    rcases exec_getResult_cases s with ⟨-, he⟩ | ⟨-, he⟩ <;> cases he.symm.trans h <;> simp
  | clear =>
    cases (exec_clear s).symm.trans h
    simp

/-- Settles O11: the write by the two conditions of the block, the commands one by one. -/
theorem setfsStagesTheFrequency : Obligations.SetfsStagesTheFrequency :=
  ⟨fun _ _ _ hp => ⟨step_setfs hp, step_write_faulted hp⟩, fun _ _ _ => exec_argFs⟩

end Sys2Proof.Machine
end

section
/-! PROOFS. PUSH and the mean of a segment (41_accumulate.md rules R135 and R146): what each outcome of a push leaves, and
the bounds of the sum and of the mean from those of one sample. -/

namespace Sys2Proof.Machine

/-! ### PUSH -/

/-- A write to SAMPLE in an unfaulted state is a push (R63, R135). -/
theorem step_push {s : State} {data : Word} {rest : List Txn} (hp : s.pending = .write 0x24 data :: rest)
    (hf : s.fcode = 0) : step s = .next (push data (accept rest s)) := by
  refine (step_cons hp).trans ?_
  rcases hostWrite_cases 0x24 data (accept rest s) with ⟨h, -⟩ | ⟨-, haddr, -⟩ | ⟨-, haddr, -⟩ | ⟨-, -, h⟩
  · simp [hf] at h
  · cases haddr
  · cases haddr
  · exact h

/-- A push into a full segment, or before CONFIGURE, is fault 7 (R137). -/
theorem push_full {s : State} (data : Word) (hfull : s.sptr.toNat = s.nsamp.toNat) :
    push data s = raiseFault .sampleOverrun data s := by
  rcases push_cases data s with ⟨-, h⟩ | ⟨hroom, -⟩
  · exact h
  · exact absurd hfull hroom

/-- A push into a segment with room stores the sample (R135). -/
theorem push_room {s : State} (data : Word) (hroom : s.sptr.toNat ≠ s.nsamp.toNat) :
    push data s = answerOk (storeSample data s) := by
  rcases push_cases data s with ⟨hfull, -⟩ | ⟨-, h⟩
  · exact absurd hfull hroom
  · exact h

/-- A sample is the write's data modulo 2^16, whatever the upper half (R98, R136). -/
theorem sampleOf_eq_ofNat (data : Word) : sampleOf data = BitVec.ofNat 16 data.toNat := rfl

/-- PUSH writes its sample at SPTR, where that entry exists (R135). -/
theorem readSamp_storeSample_sptr (data : Word) {s : State} (hlen : s.sptr.toNat < s.samp.length) :
    readSamp (storeSample data s) s.sptr.toNat = sampleOf data := by
  simp [readSamp, hlen]

/-- Settles O12: a faulted block refuses the write; otherwise it is a push, in a full segment or in one with room. -/
theorem pushStoresOneSample : Obligations.PushStoresOneSample := by
  refine fun s data rest hp => ⟨step_write_faulted hp, fun hf hfull => ?_, fun hf hroom => ?_⟩
  · rw [step_push hp hf, push_full data (s := accept rest s) hfull]
    rfl
  · rw [step_push hp hf, push_room data (s := accept rest s) hroom]
    refine ⟨_, rfl, rfl, List.length_set, fun hlen => ?_, fun k hk => ?_, flagReady_iff _⟩
    · rw [← sampleOf_eq_ofNat]
      exact readSamp_storeSample_sptr data (s := accept rest s) hlen
    · exact readSamp_storeSample_of_ne data (s := accept rest s) hk

/-! ### The sum and the mean of a segment -/

/-- `tdiv` of R12 is the library's division toward zero. -/
theorem tdiv_eq_tdiv (a : Int) (b : Nat) : tdiv a b = Int.tdiv a b := by
  unfold tdiv
  split
  · next hpos =>
    lift a to Nat using hpos
    rfl
  · next hneg =>
    obtain ⟨m, rfl⟩ := Int.eq_negSucc_of_lt_zero (not_le.1 hneg)
    rfl

theorem segmentMean_eq_tdiv (n : Nat) (xs : List Sample) : segmentMean n xs = Int.tdiv (segmentSum n xs) n :=
  tdiv_eq_tdiv _ _

/-- The values of a sample (R136). -/
theorem intOf_bounds (x : Sample) : -32768 ≤ intOf x ∧ intOf x ≤ 32767 :=
  ⟨x.le_toInt, Int.le_of_lt_add_one x.toInt_lt⟩

/-- The sum of `n` samples lies between `n` times the least and `n` times the greatest sample. -/
theorem segmentSum_bounds {n : Nat} {xs : List Sample} (hlen : n ≤ xs.length) :
    n * (-32768) ≤ segmentSum n xs ∧ segmentSum n xs ≤ n * 32767 := by
  have hcount : ((xs.take n).map intOf).length = n := by simp [hlen]
  have hlo := List.card_nsmul_le_sum ((xs.take n).map intOf) (-32768)
    (List.forall_mem_map.2 fun x _ => (intOf_bounds x).1)
  have hhi := List.sum_le_card_nsmul ((xs.take n).map intOf) 32767
    (List.forall_mem_map.2 fun x _ => (intOf_bounds x).2)
  rw [hcount, nsmul_eq_mul] at hlo hhi
  exact ⟨hlo, hhi⟩

/-- Division toward zero is monotone, so the mean lies between the least and the greatest sample. -/
theorem segmentMean_bounds {n : Nat} {xs : List Sample} (hn : 1 ≤ n) (hlen : n ≤ xs.length) :
    -32768 ≤ segmentMean n xs ∧ segmentMean n xs ≤ 32767 := by
  have hpos : (0 : Int) < n := by omega
  obtain ⟨hlo, hhi⟩ := segmentSum_bounds hlen
  rw [segmentMean_eq_tdiv]
  constructor
  · calc (-32768 : Int) = (n * (-32768) : Int).tdiv n := (Int.mul_tdiv_cancel_left _ hpos.ne').symm
      _ ≤ _ := Int.tdiv_le_tdiv hpos hlo
  · calc (segmentSum n xs).tdiv n ≤ (n * 32767 : Int).tdiv n := Int.tdiv_le_tdiv hpos hhi
      _ = 32767 := Int.mul_tdiv_cancel_left _ hpos.ne'

/-- Settles O19: at most 65535 samples, each at most 32768 in absolute value, and the mean between their bounds. -/
theorem meanFitsASample : Obligations.MeanFitsASample := by
  refine ⟨fun n xs hn hmax hlen => ⟨?_, by decide, segmentMean_eq_tdiv n xs, segmentMean_bounds hn hlen⟩, rfl, rfl⟩
  obtain ⟨hlo, hhi⟩ := segmentSum_bounds hlen
  omega

end Sys2Proof.Machine
end

section
/-! PROOFS. GETRESULT on an idle block (42_getresult.md rule R172). -/

namespace Sys2Proof.Machine

/-- Settles O25: of the two outcomes of GETRESULT, the finalisation needs SEGCNT > 0. -/
theorem getResultIdleIsNoOp : Obligations.GetResultIdleIsNoOp := by
  intro s hidle
  rcases exec_getResult_cases s with ⟨-, hanswer⟩ | ⟨hcounting, -⟩
  · exact hanswer
  · exact absurd hidle hcounting

end Sys2Proof.Machine
end

section
/-! PROOFS. CLEAR (43_clear.md rules R185, R186 and R189): the register file it leaves, what a second CLEAR does to it, and
CLEAR before the first CONFIGURE. -/

namespace Sys2Proof.Machine

/-- With NSAMP = 0 there is no logical bin to clear (R186). -/
@[simp] theorem clearBins_none (bins : List Word) : clearBins 0 bins = bins := mapBelow_none _ 0 bins

/-- Settles O30: CLEAR has one outcome, and the loop over BIN keeps its length and every entry at or above NSAMP. -/
theorem clearZeroesLogicalBins : Obligations.ClearZeroesLogicalBins := by
  rintro s ⟨⟨hbin, -⟩, hnsamp⟩
  refine ⟨_, exec_clear s, rfl, ?_, fun i hi => ?_, fun i hi => ?_⟩
  · exact (clearBins_length _ _).trans hbin
  · exact clearBins_below hi (by omega)
  · exact clearBins_above hi

/-- A CLEAR after a CLEAR changes nothing: its loop finds +0 in every logical bin, and its answer is OK again (R189). -/
theorem exec_clear_cleared (s : State) :
    exec .clear (answerOk { s with bin := clearBins s.nsamp.toNat s.bin }) =
      .next (answerOk { s with bin := clearBins s.nsamp.toNat s.bin }) := by
  rw [exec_clear]
  simp [answerOk, clearBins_idem]

/-- Settles O31: the second CLEAR repeats the first one's loop; before the first CONFIGURE the loop is empty. -/
theorem clearIsIdempotent : Obligations.ClearIsIdempotent := by
  refine fun s => ⟨_, exec_clear s, exec_clear_cleared s, rfl, rfl, rfl, fun hunconfigured => ?_⟩
  simp [answerOk, hunconfigured]

end Sys2Proof.Machine
end

section
/-! PROOFS. The contract faults (60_exceptions.md rules R216, R219 and R222): the table's rows as one predicate, the step that
each row's condition forces, and the converse, that a step whose transaction meets no row records no code. -/

namespace Sys2Proof.Machine

/-! ### The table (R216, with the priority of R218 in the conditions) -/

/-- The row of a cause: transaction `u` in state `s` is the one the row names, and the row's condition holds. -/
def FaultRow (s : State) (u : Txn) : FaultCause → Prop
  | .illegalCmd => ∃ w, u = .write 0x08 w ∧ legalWord w = false
  | .cfgCount => ∃ c : BitVec 16, u = .write 0x08 (encode (.configure c)) ∧ (c = 0 ∨ s.maxn < c.toNat)
  | .cfgFreq => ∃ c : BitVec 16, u = .write 0x08 (encode (.configure c)) ∧ c ≠ 0 ∧ c.toNat ≤ s.maxn ∧ s.argFs = 0
  | .notConfigured => u = .write 0x08 (encode .accumulate) ∧ s.nsamp = 0
  | .sampleUnderrun => u = .write 0x08 (encode .accumulate) ∧ s.nsamp ≠ 0 ∧ s.sptr.toNat ≠ s.nsamp.toNat
  | .segOverflow => u = .write 0x08 (encode .accumulate) ∧ s.nsamp ≠ 0 ∧ s.sptr.toNat = s.nsamp.toNat ∧
      s.segcnt = 0xFFFFFFFF
  | .sampleOverrun => ∃ data, u = .write 0x24 data ∧ s.sptr.toNat = s.nsamp.toNat

/-- No two causes share a code (R216). -/
theorem faultCode_injective : Function.Injective faultCode := by
  intro c c'
  cases c <;> cases c' <;> decide

/-- The codes of the table are 1 to 7 (R216). -/
theorem faultCode_range (c : FaultCause) : 1 ≤ (faultCode c).toNat ∧ (faultCode c).toNat ≤ 7 := by
  cases c <;> decide

/-! ### The step that each row forces -/

/-- The word of an instruction runs the instruction (R97). -/
theorem command_encode (i : Instr) (s : State) : command (encode i) s = exec i s := by
  cases i with
  | configure c =>
    have hnum := encode_configure_toNat c
    have hlt := c.isLt
    rcases decode_cases (encode (.configure c)) with ⟨-, -, hd⟩ | ⟨hw, -⟩ | ⟨hw, -⟩ | ⟨hw, -⟩ | ⟨hill, -⟩
    · have hcount : countField (encode (.configure c)) = c := by
        rw [← BitVec.toNat_inj, countField_toNat]; omega
      simp only [command, hd, hcount]
    · omega
    · omega
    · omega
    · rw [legalWord_eq_false_iff] at hill
      omega
  | accumulate => rfl
  | getResult => rfl
  | clear => rfl

/-- A write of an instruction's word to CMD in an unfaulted state runs the instruction (R63, R97). -/
theorem step_encode {s : State} {i : Instr} {rest : List Txn} (hp : s.pending = .write 0x08 (encode i) :: rest)
    (hf : s.fcode = 0) : step s = exec i (accept rest s) :=
  (step_cmd hp hf).trans (command_encode i _)

theorem exec_configure_badCount {c : BitVec 16} {s : State} (hbad : c = 0 ∨ s.maxn < c.toNat) :
    exec (.configure c) s = .next (raiseFault .cfgCount (encode (.configure c)) s) := by
  have hcases := exec_configure_cases c s
  simp only [← Nat.not_lt] at hcases
  tauto

theorem exec_configure_zeroFreq {c : BitVec 16} {s : State} (hne : c ≠ 0) (hle : c.toNat ≤ s.maxn)
    (hfs : s.argFs = 0) : exec (.configure c) s = .next (raiseFault .cfgFreq (encode (.configure c)) s) := by
  have hcases := exec_configure_cases c s
  have hroom : ¬ s.maxn < c.toNat := Nat.not_lt.2 hle
  tauto

theorem exec_accumulate_unconfigured {s : State} (hn : s.nsamp = 0) :
    exec .accumulate s = .next (raiseFault .notConfigured (encode .accumulate) s) := by
  have hcases := exec_accumulate_cases s
  tauto

theorem exec_accumulate_underrun {s : State} (hn : s.nsamp ≠ 0) (hshort : s.sptr.toNat ≠ s.nsamp.toNat) :
    exec .accumulate s = .next (raiseFault .sampleUnderrun (encode .accumulate) s) := by
  have hcases := exec_accumulate_cases s
  tauto

theorem exec_accumulate_overflow {s : State} (hn : s.nsamp ≠ 0) (hfull : s.sptr.toNat = s.nsamp.toNat)
    (hmax : s.segcnt = 0xFFFFFFFF) :
    exec .accumulate s = .next (raiseFault .segOverflow (encode .accumulate) s) := by
  have hcases := exec_accumulate_cases s
  tauto

/-- A transaction that meets a row enters that row's fault, with the word of the write in FINFO, and does nothing else. -/
theorem step_of_faultRow {s : State} {u : Txn} {rest : List Txn} {c : FaultCause} (hp : s.pending = u :: rest)
    (hf : s.fcode = 0) (hrow : FaultRow s u c) :
    ∃ addr w, u = .write addr w ∧ step s = .next (raiseFault c w (accept rest s)) := by
  cases c with
  | illegalCmd =>
    obtain ⟨w, rfl, hill⟩ := hrow
    exact ⟨_, w, rfl, (step_cmd hp hf).trans (command_illegal hill _)⟩
  | cfgCount =>
    obtain ⟨count, rfl, hbad⟩ := hrow
    exact ⟨_, _, rfl, (step_encode hp hf).trans (exec_configure_badCount (s := accept rest s) hbad)⟩
  | cfgFreq =>
    obtain ⟨count, rfl, hne, hle, hfs⟩ := hrow
    exact ⟨_, _, rfl, (step_encode hp hf).trans (exec_configure_zeroFreq (s := accept rest s) hne hle hfs)⟩
  | notConfigured =>
    obtain ⟨rfl, hn⟩ := hrow
    exact ⟨_, _, rfl, (step_encode hp hf).trans (exec_accumulate_unconfigured (s := accept rest s) hn)⟩
  | sampleUnderrun =>
    obtain ⟨rfl, hn, hshort⟩ := hrow
    exact ⟨_, _, rfl, (step_encode hp hf).trans (exec_accumulate_underrun (s := accept rest s) hn hshort)⟩
  | segOverflow =>
    obtain ⟨rfl, hn, hfull, hmax⟩ := hrow
    exact ⟨_, _, rfl, (step_encode hp hf).trans (exec_accumulate_overflow (s := accept rest s) hn hfull hmax)⟩
  | sampleOverrun =>
    obtain ⟨data, rfl, hfull⟩ := hrow
    exact ⟨_, data, rfl, by rw [step_push hp hf, push_full data (s := accept rest s) hfull]⟩

/-! ### A step that records a code meets a row -/

/-- A command meets a row of the table, or it leaves FCODE and FINFO as they are. -/
theorem faultRow_or_exec_unfaulted {i : Instr} {s t : State} (h : exec i s = .next t) :
    (∃ c, FaultRow s (.write 0x08 (encode i)) c) ∨ (t.fcode = s.fcode ∧ t.finfo = s.finfo) := by
  cases i with
  | configure n =>
    rcases exec_configure_cases n s with ⟨hbad, -⟩ | ⟨⟨hne, hle⟩, hfs, -⟩ | ⟨-, -, he⟩
    · exact .inl ⟨.cfgCount, n, rfl, hbad⟩
    · exact .inl ⟨.cfgFreq, n, rfl, hne, hle, hfs⟩
    · cases he.symm.trans h
      exact .inr ⟨rfl, rfl⟩
  | accumulate =>
    rcases exec_accumulate_cases s with ⟨hn, -⟩ | ⟨hn, hshort, -⟩ | ⟨hn, hfull, hmax, -⟩ | ⟨-, -, -, he⟩
    · exact .inl ⟨.notConfigured, rfl, hn⟩
    · exact .inl ⟨.sampleUnderrun, rfl, hn, hshort⟩
    · exact .inl ⟨.segOverflow, rfl, hn, hfull, hmax⟩
    · cases he.symm.trans h
      exact .inr (by simp)
  | getResult =>
    rcases exec_getResult_cases s with ⟨-, he⟩ | ⟨-, he⟩ <;> cases he.symm.trans h <;> exact .inr ⟨rfl, rfl⟩
  | clear =>
    cases (exec_clear s).symm.trans h
    exact .inr ⟨rfl, rfl⟩

/-- From an unfaulted state a transaction meets a row of the table, or the block stays unfaulted and FINFO, if 0, stays 0
(a reset makes it 0, every other transaction leaves it). -/
theorem faultRow_or_step_unfaulted {s t : State} {u : Txn} {rest : List Txn} (hp : s.pending = u :: rest)
    (hf : s.fcode = 0) (h : step s = .next t) :
    (∃ c, FaultRow s u c) ∨ (t.fcode = 0 ∧ (s.finfo = 0 → t.finfo = 0)) := by
  have keeps {t' : State} (hc : t'.fcode = s.fcode) (hi : t'.finfo = s.finfo) :
      t'.fcode = 0 ∧ (s.finfo = 0 → t'.finfo = 0) := ⟨hc.trans hf, hi.trans⟩
  cases hr : isReset u with
  | true =>
    rw [step_cons hp] at h
    cases u with
    | reset | cutWrite =>
      cases h
      exact .inr ⟨rfl, fun _ => rfl⟩
    | read | write | oddWidth => cases hr
  | false =>
    rcases step_cases hp hr h with
      ⟨rfl, -⟩ | ⟨a, -, rfl⟩ | ⟨-, data, -, rfl⟩ | ⟨-, data, rfl, rfl⟩ | ⟨-, w, rfl, hill, -⟩ | ⟨-, i, rfl, he⟩
    · exact .inr (keeps rfl rfl)
    · exact .inr (keeps rfl rfl)
    · exact .inr (keeps rfl rfl)
    · rcases push_cases data (accept rest s) with ⟨hfull, -⟩ | ⟨-, he⟩
      · exact .inl ⟨.sampleOverrun, data, rfl, hfull⟩
      · rw [he]
        exact .inr (keeps rfl rfl)
    · exact .inl ⟨.illegalCmd, w, rfl, hill⟩
    · exact (faultRow_or_exec_unfaulted he).imp_right fun ⟨hc, hi⟩ => keeps hc hi

/-- What a step that records a code has done: it entered the fault of the row it meets. -/
theorem step_faults {s t : State} {u : Txn} {rest : List Txn} (hp : s.pending = u :: rest) (hf : s.fcode = 0)
    (h : step s = .next t) (ht : t.fcode ≠ 0) :
    ∃ c addr w, FaultRow s u c ∧ u = .write addr w ∧ t = raiseFault c w (accept rest s) := by
  rcases faultRow_or_step_unfaulted hp hf h with ⟨c, hrow⟩ | ⟨h0, -⟩
  · obtain ⟨addr, w, hu, hs⟩ := step_of_faultRow hp hf hrow
    cases hs.symm.trans h
    exact ⟨c, addr, w, hrow, hu, rfl⟩
  · exact absurd h0 ht

/-- A cause's code is recorded exactly when its row is met. -/
theorem step_fcode_iff {s t : State} {u : Txn} {rest : List Txn} (hp : s.pending = u :: rest) (hf : s.fcode = 0)
    (h : step s = .next t) (c : FaultCause) : t.fcode = faultCode c ↔ FaultRow s u c := by
  constructor
  · intro hc
    obtain ⟨c', addr, w, hrow, -, rfl⟩ := step_faults hp hf h (hc ▸ faultCode_ne_zero c)
    exact faultCode_injective hc ▸ hrow
  · intro hrow
    obtain ⟨addr, w, -, hs⟩ := step_of_faultRow hp hf hrow
    cases hs.symm.trans h
    rfl

/-- Settles O36: each row by the step it forces, and every recorded code by the row it needs. -/
theorem faultCodesAreExactlyTheTable : Obligations.FaultCodesAreExactlyTheTable := by
  intro s t u rest hp hf h
  have hrow := step_fcode_iff hp hf h
  have hcfg := hrow .cfgCount
  have hfreq := hrow .cfgFreq
  simp only [FaultRow, encode_configure_or] at hcfg hfreq
  refine ⟨hrow .illegalCmd, hcfg, hfreq, hrow .notConfigured, hrow .sampleUnderrun, hrow .segOverflow,
    hrow .sampleOverrun, ?_, fun ht => ?_, fun ht => ?_⟩
  · by_cases ht : t.fcode = 0
    · simp [ht]
    · obtain ⟨c, addr, w, -, -, rfl⟩ := step_faults hp hf h ht
      exact (faultCode_range c).2
  · obtain ⟨c, addr, w, -, hu, rfl⟩ := step_faults hp hf h ht
    exact ⟨addr, w, hu, rfl⟩
  · rcases faultRow_or_step_unfaulted hp hf h with ⟨c, hc⟩ | ⟨-, hinfo⟩
    · exact absurd (((hrow c).2 hc).symm.trans ht) (faultCode_ne_zero c)
    · exact hinfo

/-- Settles O37: the step is contract-fault entry on the accepted transaction, whose frame is the statement. -/
theorem contractFaultIsPrecise : Obligations.ContractFaultIsPrecise := by
  intro s t u rest hp hf h ht
  obtain ⟨c, addr, w, -, -, rfl⟩ := step_faults hp hf h ht
  obtain ⟨hlo, hhi⟩ := faultCode_range c
  exact ⟨rfl, hlo, hhi, (flagFault_iff _).2 ht⟩

/-! ### While faulted -/

/-- Settles O38: a write is refused whatever its address; of the read map's answers only STATUS depends on FCODE. -/
theorem behaviourWhileFaulted : Obligations.BehaviourWhileFaulted := by
  refine fun s rest hf => ⟨fun addr data hp => step_write_faulted hp hf, fun addr hp => ?_⟩
  have hread := hostReadAnswersTheMap s addr rest hp
  have hread0 := hostReadAnswersTheMap { s with fcode := 0 } addr rest hp
  refine ⟨_, _, hread, hread0, rfl, rfl, fun hne => ?_, ?_⟩
  · have hstatus : addr.toNat ≠ 0x0C := fun h => hne (BitVec.eq_of_toNat_eq h)
    simp only [hstatus, if_false]
    rfl
  · rintro rfl
    rfl

end Sys2Proof.Machine
end

section
/-! PROOFS. Decode and encode (30_encoding.md rules R92 to R97), and the lines of a command script (R100). -/

namespace Sys2Proof

/-- The decoder reads every instruction back from its word (R97). -/
theorem decode_encode (i : Instr) : decode (encode i) = .ok i := by
  cases i with
  | configure c =>
    have hnum := encode_configure_toNat c
    have hlt := c.isLt
    rcases decode_cases (encode (.configure c)) with ⟨-, -, hd⟩ | ⟨hw, -⟩ | ⟨hw, -⟩ | ⟨hw, -⟩ | ⟨hill, -⟩
    · have hcount : countField (encode (.configure c)) = c := by
        rw [← BitVec.toNat_inj, countField_toNat]; omega
      rw [hd, hcount]
    · omega
    · omega
    · omega
    · simp [(Laws.LegalEncoding.configure c).2] at hill
  | accumulate => rfl
  | getResult => rfl
  | clear => rfl

/-- A word that decodes is the word of what it decodes to: no bit of it is free (R92, R93). -/
theorem encode_of_decode {w : Word} {i : Instr} (h : decode w = .ok i) : encode i = w := by
  have hlt := w.isLt
  rw [← BitVec.toNat_inj]
  rcases decode_cases w with ⟨hop, hz, hd⟩ | ⟨hw, hd⟩ | ⟨hw, hd⟩ | ⟨hw, hd⟩ | ⟨-, e, hd⟩ <;> cases hd.symm.trans h
  · rw [encode_configure_toNat, countField_toNat]; omega
  · exact hw.symm
  · exact hw.symm
  · exact hw.symm

/-- Settles O1: the decoder inverts the encoder, and a word that decodes is an encoding; every instruction is well formed. -/
theorem decodeIsInverseOfEncode : Obligations.DecodeIsInverseOfEncode := by
  refine fun w i => ⟨fun h => ⟨?_, encode_of_decode h⟩, fun ⟨_, henc⟩ => henc ▸ decode_encode i⟩
  cases i <;> rfl

/-- Settles O4: the decoder evaluated on the twelve words. -/
theorem writtenOutWordsDecode : Obligations.WrittenOutWordsDecode := by
  unfold Obligations.WrittenOutWordsDecode
  decide

namespace Machine

/-- A register that `RD` names is read at its offset (R33, R100). -/
theorem regAt_offsetOf {r : PortReg} (hr : r ∈ readableNames) (maxn : Nat) :
    regAt maxn (BitVec.ofNat 19 (offsetOf r)) = some r := by
  simp only [readableNames, List.mem_cons, List.not_mem_nil, or_false] at hr
  rcases hr with rfl | rfl | rfl | rfl | rfl | rfl | rfl | rfl | rfl | rfl <;> rfl

/-- A sample written as a number comes back from the lower half of the word, the upper half being zero (R98, R100). -/
theorem sampleOf_ofInt {x : Int} (hlo : -32768 ≤ x) (hhi : x ≤ 32767) :
    (sampleOf ((BitVec.ofInt 16 x).setWidth 32)).toInt = x := by
  have hlow : sampleOf ((BitVec.ofInt 16 x).setWidth 32) = BitVec.ofInt 16 x := by
    rw [sampleOf_eq_ofNat, ← BitVec.toNat_inj]
    simp
    omega
  rw [hlow, BitVec.toInt_ofInt]
  exact Int.bmod_eq_of_le (by omega) (by omega)

/-- Settles O35: line by line of R100's table; each operand in its range is a word or an address as it stands. -/
theorem scriptLinesAreTheirTransactions : Obligations.ScriptLinesAreTheirTransactions := by
  refine ⟨fun f hf => ⟨_, rfl, ?_⟩, fun n hn => ⟨_, rfl, ?_⟩, fun x hx => ⟨_, rfl, ?_, ?_⟩, rfl, rfl, rfl, rfl,
    fun i hi => ⟨_, rfl, ?_⟩, fun r hr maxn => ⟨_, rfl, ?_⟩, fun w hw => ⟨_, rfl, ?_⟩⟩
  · exact Nat.mod_eq_of_lt (of_decide_eq_true hf)
  · have hle : n ≤ 65535 := of_decide_eq_true hn
    rw [encode_configure_toNat, BitVec.toNat_ofNat, Nat.mod_eq_of_lt (by omega)]
  · rw [BitVec.toNat_setWidth]
    omega
  · simp only [lineWellFormed, Bool.and_eq_true, decide_eq_true_eq] at hx
    exact sampleOf_ofInt hx.1 hx.2
  · have hlt : i < 65536 := of_decide_eq_true hi
    rw [BitVec.toNat_ofNat, binBase]
    omega
  · exact regAt_offsetOf (by simpa [lineWellFormed] using hr) maxn
  · exact Nat.mod_eq_of_lt (of_decide_eq_true hw)

end Machine
end Sys2Proof
end

section
/-! PROOFS. What every step does (20_memory.md rules R63, R66, R72; 70_reset_and_hazards.md rule R263): it completes, it
runs the decoded command, a faulted block holds its state, and the bus errors. -/

namespace Sys2Proof.Machine

/-! ### Completion (R263) -/

/-- The outcome of a transaction or a command from `s` is a next state with the same parameters and the same transactions
still to process, and no draw is given back. -/
def Completes (s : State) (o : Host.Outcome State Fault Refusal) : Prop :=
  ∃ t, o = .next t ∧ t.pending = s.pending ∧ t.cfg = s.cfg ∧ s.draws ≤ t.draws

theorem exec_completes (i : Instr) (s : State) : Completes s (exec i s) := by
  cases i with
  | configure c =>
    rcases exec_configure_cases c s with ⟨-, he⟩ | ⟨-, -, he⟩ | ⟨-, -, he⟩ <;> exact ⟨_, he, rfl, rfl, le_rfl⟩
  | accumulate =>
    rcases exec_accumulate_cases s with ⟨-, he⟩ | ⟨-, -, he⟩ | ⟨-, -, -, he⟩ | ⟨-, -, -, he⟩
    · exact ⟨_, he, rfl, rfl, le_rfl⟩
    · exact ⟨_, he, rfl, rfl, le_rfl⟩
    · exact ⟨_, he, rfl, rfl, le_rfl⟩
    · exact ⟨_, he, by simp, by simp, by simp⟩
  | getResult =>
    rcases exec_getResult_cases s with ⟨-, he⟩ | ⟨-, he⟩
    · exact ⟨_, he, rfl, rfl, le_rfl⟩
    · exact ⟨_, he, rfl, rfl, by simp⟩
  | clear => exact ⟨_, exec_clear s, rfl, rfl, le_rfl⟩

theorem push_completes (data : Word) (s : State) : Completes s (.next (push data s)) := by
  rcases push_cases data s with ⟨-, h⟩ | ⟨-, h⟩ <;> exact ⟨_, rfl, by simp [h], by simp [h], by simp [h]⟩

theorem hostWrite_completes (addr : PortAddr) (data : Word) (s : State) : Completes s (hostWrite addr data s) := by
  rcases hostWrite_cases addr data s with ⟨-, h⟩ | ⟨-, -, h⟩ | ⟨-, -, h⟩ | ⟨-, -, h⟩ <;> rw [h]
  · exact ⟨_, rfl, rfl, rfl, le_rfl⟩
  · rcases command_cases data s with ⟨-, i, -, hc⟩ | ⟨-, hc⟩ <;> rw [hc]
    · exact exec_completes i s
    · exact ⟨_, rfl, rfl, rfl, le_rfl⟩
  · exact ⟨_, rfl, rfl, rfl, le_rfl⟩
  · exact push_completes data s

theorem transact_completes (u : Txn) (s : State) : Completes s (transact u s) := by
  cases u with
  | read addr => exact ⟨_, rfl, rfl, rfl, le_rfl⟩
  | write addr data => exact hostWrite_completes addr data s
  | oddWidth => exact ⟨_, rfl, rfl, rfl, le_rfl⟩
  | reset => exact ⟨_, rfl, rfl, rfl, by simp⟩
  | cutWrite => exact ⟨_, rfl, rfl, rfl, by simp [resetCutting]⟩

/-- Settles O6: with the list empty no transaction is accepted. -/
theorem idlePortHoldsState : Obligations.IdlePortHoldsState := by
  intro s hidle
  simp [step, stepPort, hidle]

/-- Settles O7: an idle step holds the state; otherwise the oldest transaction completes on the accepted state. -/
theorem everyTransactionCompletes : Obligations.EveryTransactionCompletes := by
  intro s
  cases hp : s.pending with
  | nil => exact ⟨s, idlePortHoldsState s hp, hp, rfl, le_rfl⟩
  | cons u rest =>
    obtain ⟨t, ht, hpending, hcfg, hdraws⟩ := transact_completes u (accept rest s)
    exact ⟨t, (step_cons hp).trans ht, hpending, hcfg, hdraws⟩

/-- Settles O5: the write reaches `Command(w)`, whose word is the encoding of what it decodes to. -/
theorem stepRunsTheDecodedCommand : Obligations.StepRunsTheDecodedCommand := by
  refine ⟨fun s w i rest hp hf hd => ?_, fun s w i hf hd => ?_⟩
  · rw [← encode_of_decode hd] at hp
    exact step_encode hp hf
  · have hp : (s.withFetchWord 32 w.toNat).pending = .write 0x08 (encode i) :: s.pending := by
      rw [encode_of_decode hd]
      simp [State.withFetchWord, commandTxn, cmdAddr, Nat.mod_eq_of_lt w.isLt]
    exact step_encode hp hf

/-! ### The Faulted state (R220, R222) -/

/-- One step of a faulted block without reset: it refuses or reads, and holds its architectural state. -/
theorem arch_step_of_faulted {s t : State} (hf : s.fcode ≠ 0) (hr : ∀ u ∈ s.pending, isReset u = false)
    (h : step s = .next t) : arch t = arch s := by
  cases hp : s.pending with
  | nil => cases (idlePortHoldsState s hp).symm.trans h; rfl
  | cons u rest =>
    rcases step_cases hp (hr u (by simp [hp])) h with ⟨rfl, -⟩ | ⟨a, -, rfl⟩ | ⟨h0, -⟩ | ⟨h0, -⟩ | ⟨h0, -⟩ | ⟨h0, -⟩
    · rfl
    · rfl
    all_goals exact absurd h0 hf

/-- Settles O39: by induction on the number of steps; each holds the architectural state, so the next one starts faulted. -/
theorem faultedStateIsAbsorbing : Obligations.FaultedStateIsAbsorbing := by
  intro k
  induction k with
  | zero =>
    intro s t hf _ h
    cases h
    exact ⟨rfl, (flagFault_iff s).2 hf⟩
  | succ k ih =>
    intro s t hf hr h
    obtain ⟨m, hm, hpending, -, -⟩ := everyTransactionCompletes s
    have harch : arch m = arch s := arch_step_of_faulted hf hr hm
    have hfm : m.fcode ≠ 0 := by rwa [show m.fcode = s.fcode from congrArg ArchState.fcode harch]
    have hrm : ∀ u ∈ m.pending, isReset u = false := fun u hu => hr u (List.mem_of_mem_tail (hpending ▸ hu))
    simp only [afterSteps, hm] at h
    obtain ⟨hk, hout⟩ := ih m t hfm hrm h
    exact ⟨hk.trans harch, hout⟩

/-! ### What a command leaves -/

/-- Everything a command that answers `t` has done: it entered a contract fault, or it completed. -/
theorem exec_cases {i : Instr} {s t : State} (h : exec i s = .next t) :
    (∃ cause w, t = raiseFault cause w s) ∨
    (∃ c, i = .configure c ∧ (c ≠ 0 ∧ c.toNat ≤ s.maxn) ∧ s.argFs ≠ 0 ∧ t = answerOk (applyConfig c s)) ∨
    (i = .accumulate ∧ SegmentReady s ∧ t = answerOk (accumulateSegment s)) ∨
    (i = .getResult ∧ s.segcnt = 0 ∧ t = answerOk s) ∨
    (i = .getResult ∧ s.segcnt ≠ 0 ∧ t = answerOk (finalizeBins s)) ∨
    (i = .clear ∧ t = answerOk { s with bin := clearBins s.nsamp.toNat s.bin }) := by
  cases i with
  | configure c =>
    rcases exec_configure_cases c s with ⟨-, he⟩ | ⟨-, -, he⟩ | ⟨hc, hfs, he⟩ <;> cases he.symm.trans h
    · exact .inl ⟨_, _, rfl⟩
    · exact .inl ⟨_, _, rfl⟩
    · exact .inr (.inl ⟨c, rfl, hc, hfs, rfl⟩)
  | accumulate =>
    rcases exec_accumulate_cases s with ⟨-, he⟩ | ⟨-, -, he⟩ | ⟨-, -, -, he⟩ | ⟨hn, hfull, hmax, he⟩ <;>
      cases he.symm.trans h
    · exact .inl ⟨_, _, rfl⟩
    · exact .inl ⟨_, _, rfl⟩
    · exact .inl ⟨_, _, rfl⟩
    · exact .inr (.inr (.inl ⟨rfl, ⟨hn, hfull, hmax⟩, rfl⟩))
  | getResult =>
    rcases exec_getResult_cases s with ⟨hcnt, he⟩ | ⟨hcnt, he⟩ <;> cases he.symm.trans h
    · exact .inr (.inr (.inr (.inl ⟨rfl, hcnt, rfl⟩)))
    · exact .inr (.inr (.inr (.inr (.inl ⟨rfl, hcnt, rfl⟩))))
  | clear =>
    cases (exec_clear s).symm.trans h
    exact .inr (.inr (.inr (.inr (.inr ⟨rfl, rfl⟩))))

/-! ### Bus errors (R66) -/

/-- A command is answered OK, or it records a code. -/
theorem exec_ok_or_fault {i : Instr} {s t : State} (h : exec i s = .next t) : t.answer = some .ok ∨ t.fcode ≠ 0 := by
  rcases exec_cases h with
    ⟨c, w, rfl⟩ | ⟨c, -, -, -, rfl⟩ | ⟨-, -, rfl⟩ | ⟨-, -, rfl⟩ | ⟨-, -, rfl⟩ | ⟨-, rfl⟩
  · exact .inr (faultCode_ne_zero c)
  all_goals exact .inl rfl

/-- An unfaulted block performs a write to one of the three writable registers: it is answered OK or recorded in FCODE. -/
theorem step_writable {s t : State} {addr : PortAddr} {data : Word} {rest : List Txn}
    (hp : s.pending = .write addr data :: rest) (hf : s.fcode = 0) (haddr : addr = 0x08 ∨ addr = 0x10 ∨ addr = 0x24)
    (h : step s = .next t) : t.answer = some .ok ∨ t.fcode ≠ 0 := by
  rcases step_cases hp rfl h with
    ⟨-, hbus⟩ | ⟨a, hu, -⟩ | ⟨-, d, -, rfl⟩ | ⟨-, d, -, rfl⟩ | ⟨-, w, -, -, rfl⟩ | ⟨-, i, -, he⟩
  · rcases hbus with hne | hother
    · exact absurd hf hne
    · have haddr' := hother addr data rfl
      tauto
  · cases hu
  · exact .inl rfl
  · rcases push_cases d (accept rest s) with ⟨-, hpush⟩ | ⟨-, hpush⟩ <;> rw [hpush]
    · exact .inr (faultCode_ne_zero .sampleOverrun)
    · exact .inl rfl
  · exact .inr (faultCode_ne_zero .illegalCmd)
  · exact exec_ok_or_fault he

/-- A write to another address, or in the Faulted state, is a bus error (R63, R66). -/
theorem step_write_refused {s : State} {addr : PortAddr} {data : Word} {rest : List Txn}
    (hp : s.pending = .write addr data :: rest)
    (hrefused : (addr ≠ 0x08 ∧ addr ≠ 0x10 ∧ addr ≠ 0x24) ∨ s.fcode ≠ 0) :
    step s = .next (busError (accept rest s)) := by
  refine (step_cons hp).trans ?_
  rcases hostWrite_cases addr data (accept rest s) with ⟨-, h⟩ | ⟨h0, ha, -⟩ | ⟨h0, ha, -⟩ | ⟨h0, ha, -⟩
  · exact h
  all_goals exact absurd h0 (by simpa [ha] using hrefused)

/-- The addresses at which there is nothing to read (R62, R66): misaligned, CMD and SAMPLE, and the reserved ones. -/
theorem unreadable_iff (s : State) (addr : PortAddr) :
    (regAt s.maxn addr).bind (readReg s) = none ↔
      (addr.toNat % 4 ≠ 0 ∨ addr = 0x08 ∨ addr = 0x24 ∨ (0x30 ≤ addr.toNat ∧ addr.toNat < 0x40000) ∨
        0x40000 + 4 * s.maxn ≤ addr.toNat) := by
  have hcmd : addr = 0x08 ↔ addr.toNat = 0x08 := BitVec.toNat_inj.symm
  have hsample : addr = 0x24 ↔ addr.toNat = 0x24 := BitVec.toNat_inj.symm
  rw [hcmd, hsample]
  by_cases hal : addr.toNat % 4 = 0
  case neg => simp [regAt_misaligned s.maxn hal, hal]
  by_cases hreg : addr.toNat ∈ regMap.map Prod.fst
  · rw [regAt_listed s.maxn hreg]
    rcases mem_regMap_offsets.1 hreg with h | h | h | h | h | h | h | h | h | h | h | h <;>
      simp [h, regMap, List.lookup_cons, readReg] <;> omega
  · have hunlisted := mem_regMap_offsets.not.1 hreg
    by_cases hwin : 0x40000 ≤ addr.toNat ∧ addr.toNat < 0x40000 + 4 * s.maxn
    · rw [regAt_window hal hwin]
      simp only [Option.bind_some, readReg, reduceCtorEq, false_iff]
      omega
    · rw [regAt_reserved hreg hwin]
      simp only [Option.bind_none, true_iff]
      omega

/-- A read is answered ERR exactly where there is nothing to read. -/
theorem readAnswer_eq_err_iff (o : Option Word) : readAnswer o = .err ↔ o = none := by
  cases o <;> simp [readAnswer]

/-- Settles O34: by the transaction; a read changes nothing, a performed write answers OK or changes FCODE. -/
theorem busErrorsAreExactlyTheSixCases : Obligations.BusErrorsAreExactlyTheSixCases := by
  intro s t u rest hp hr h
  cases u with
  | reset | cutWrite => cases hr
  | oddWidth width isWrite addr =>
    cases (step_cons hp).symm.trans h
    exact iff_of_true ⟨rfl, rfl⟩ (.inl ⟨width, isWrite, addr, rfl⟩)
  | read addr =>
    cases (step_read hp).symm.trans h
    have hread := (readAnswer_eq_err_iff _).trans (unreadable_iff s addr)
    constructor
    · rintro ⟨herr, -⟩
      exact .inr (.inl ⟨addr, rfl, hread.1 (Option.some.inj herr)⟩)
    · rintro (⟨_, _, _, hu⟩ | ⟨_, hu, hcase⟩ | ⟨_, _, hu, -⟩) <;> cases hu
      exact ⟨congrArg some (hread.2 hcase), rfl⟩
  | write addr data =>
    by_cases hrefused : (addr ≠ 0x08 ∧ addr ≠ 0x10 ∧ addr ≠ 0x24) ∨ s.fcode ≠ 0
    · cases (step_write_refused hp hrefused).symm.trans h
      exact iff_of_true ⟨rfl, rfl⟩ (.inr (.inr ⟨addr, data, rfl, .inr hrefused⟩))
    · have hf : s.fcode = 0 := by tauto
      have haddr : addr = 0x08 ∨ addr = 0x10 ∨ addr = 0x24 := by tauto
      have hal : addr.toNat % 4 = 0 := by rcases haddr with rfl | rfl | rfl <;> rfl
      refine iff_of_false ?_ ?_
      · rintro ⟨herr, harch⟩
        rcases step_writable hp hf haddr h with hok | hcode
        · cases hok.symm.trans herr
        · exact hcode ((congrArg ArchState.fcode harch).trans hf)
      · rintro (⟨_, _, _, hu⟩ | ⟨_, hu, -⟩ | ⟨_, _, hu, hcase⟩) <;> cases hu
        exact hcase.elim (fun hmis => hmis hal) hrefused

/-! ### Configured until reset (R39) -/

/-- No command makes NSAMP zero: CONFIGURE refuses a count of 0, and no other command writes NSAMP. -/
theorem exec_nsamp_ne_zero {i : Instr} {s t : State} (h : exec i s = .next t) (hn : s.nsamp ≠ 0) : t.nsamp ≠ 0 := by
  rcases exec_cases h with
    ⟨c, w, rfl⟩ | ⟨c, -, ⟨hne, -⟩, -, rfl⟩ | ⟨-, -, rfl⟩ | ⟨-, -, rfl⟩ | ⟨-, -, rfl⟩ | ⟨-, rfl⟩
  · exact hn
  · exact hne
  · rwa [answerOk_nsamp, accumulateSegment_nsamp]
  all_goals exact hn

/-- Settles O46: of the transactions without reset only a command can write NSAMP. -/
theorem configuredUntilReset : Obligations.ConfiguredUntilReset := by
  intro s t u rest hp hr h hn
  rcases step_cases hp hr h with
    ⟨rfl, -⟩ | ⟨a, -, rfl⟩ | ⟨-, d, -, rfl⟩ | ⟨-, d, -, rfl⟩ | ⟨-, w, -, -, rfl⟩ | ⟨-, i, -, he⟩
  · exact hn
  · exact hn
  · exact hn
  · rcases push_cases d (accept rest s) with ⟨-, hpush⟩ | ⟨-, hpush⟩ <;> rw [hpush] <;> exact hn
  · exact hn
  · exact exec_nsamp_ne_zero he hn

end Sys2Proof.Machine
end

section
/-! PROOFS. STATUS bit by bit (10_state.md rules R29, R37), the reset state (70_reset_and_hazards.md rules R245, R246), and
the phases (10_state.md rule R28) under the four commands. -/

namespace Sys2Proof.Machine

/-! ### STATUS -/

/-- A flag stands at its bit, and at no other. -/
theorem flagAt_getLsbD {k : Nat} (b : Bool) (hk : k < 32) (j : Nat) : (flagAt k b).getLsbD j = (decide (j = k) && b) := by
  have hbit : (BitVec.ofBool b).getLsbD (j - k) = (decide (j - k = 0) && b) := by
    cases b <;> simp [BitVec.getLsbD_one]
  by_cases hj : j = k
  · subst hj
    simp [flagAt, hk]
  · by_cases hjk : j < k
    · simp [flagAt, hjk, hj]
    · have hne : ¬ j - k = 0 := by omega
      simp [flagAt, hbit, hj, hne]

/-- Every bit of STATUS: FCODE from bit 8 on, and the four flags (R37). -/
theorem statusWord_getLsbD (s : State) (j : Nat) :
    (statusWord s).getLsbD j =
      ((decide (8 ≤ j) && s.fcode.getLsbD (j - 8)) || (decide (j = 3) && flagReady s) || (decide (j = 2) && flagPending s) ||
        (decide (j = 1) && flagConfigured s) || (decide (j = 0) && flagFault s)) := by
  have hcode : (s.fcode.setWidth 32 <<< 8).getLsbD j = (decide (8 ≤ j) && s.fcode.getLsbD (j - 8)) := by
    have hwide : 32 ≤ j → s.fcode.getLsbD (j - 8) = false := fun hj => BitVec.getLsbD_of_ge _ _ (by omega)
    by_cases hj : j < 32
    · simp [hj, ← decide_not]
    · simp [hj, hwide (Nat.not_lt.1 hj)]
  simp only [statusWord, BitVec.getLsbD_or, hcode, flagAt_getLsbD _ (show 3 < 32 by decide),
    flagAt_getLsbD _ (show 2 < 32 by decide), flagAt_getLsbD _ (show 1 < 32 by decide),
    flagAt_getLsbD _ (show 0 < 32 by decide)]

theorem flagConfigured_iff (s : State) : flagConfigured s = true ↔ s.nsamp ≠ 0 := by simp [flagConfigured]

theorem flagPending_iff (s : State) : flagPending s = true ↔ s.segcnt ≠ 0 := by simp [flagPending]

/-- Settles O33: each bit read off `statusWord_getLsbD`; FCODE has eight bits. -/
theorem statusWordFields : Obligations.StatusWordFields := by
  intro s
  simp only [statusWord_getLsbD]
  refine ⟨?_, ?_, ?_, ?_, fun k hlo hhi => ?_, fun k hk => ?_, fun k hk => ?_⟩
  · simpa using flagFault_iff s
  · simpa using flagConfigured_iff s
  · simpa using flagPending_iff s
  · simpa using flagReady_iff s
  · have hne : ¬ 8 ≤ k ∧ k ≠ 3 ∧ k ≠ 2 ∧ k ≠ 1 ∧ k ≠ 0 := by omega
    simp [hne]
  · have hne : 8 + k ≠ 3 ∧ 8 + k ≠ 2 ∧ 8 + k ≠ 1 ∧ 8 + k ≠ 0 := by omega
    simp [hne]
  · have hne : k ≠ 3 ∧ k ≠ 2 ∧ k ≠ 1 ∧ k ≠ 0 := by omega
    have hcode : s.fcode.getLsbD (k - 8) = false := BitVec.getLsbD_of_ge _ _ (by omega)
    simp [hne, hcode]

/-! ### Reset -/

theorem statusWord_eq_zero {s : State} (hcode : s.fcode = 0) (hn : s.nsamp = 0) (hcnt : s.segcnt = 0) :
    statusWord s = 0 := by
  simp [statusWord, flagReady, flagPending, flagConfigured, flagFault, hcode, hn, hcnt, flagAt]

theorem phase_eq_idle {s : State} (hcnt : s.segcnt = 0) : phase s = .idle := if_pos hcnt

/-- Every register file has its MAXN entries after a reset. -/
theorem arraysFit_resetBlock (s : State) : ArraysFit (resetBlock s) := by simp [ArraysFit]

/-- Settles O40: the step of a reset is the reset of the accepted state. -/
theorem resetReturnsToIdle : Obligations.ResetReturnsToIdle := fun s rest hp =>
  ⟨_, step_cons hp, rfl, rfl, rfl, rfl, rfl, rfl, rfl, statusWord_eq_zero rfl rfl rfl, phase_eq_idle rfl, rfl,
    arraysFit_resetBlock (accept rest s), rfl, rfl⟩

/-- The answer to a cut-off write is one of the three that U9 allows. -/
theorem cutAnswerOf_cases (d : Nat) :
    cutAnswerOf d = none ∨ cutAnswerOf d = some .ok ∨ cutAnswerOf d = some .err := by
  unfold cutAnswerOf
  split_ifs <;> simp

/-- Settles O41: both steps reset the accepted state, and the second draws its answer. -/
theorem cutWriteLeavesTheResetState : Obligations.CutWriteLeavesTheResetState := fun s _ _ rest hp =>
  ⟨_, _, step_cons (s := { s with pending := .reset :: rest }) rfl, step_cons hp, cutAnswerOf_cases s.draws⟩

/-- Settles O42: the scalars are those of `State.afterReset`. -/
theorem resetStateScalars : Obligations.ResetStateScalars :=
  ⟨rfl, rfl, rfl, rfl, rfl, rfl, rfl, statusWord_eq_zero rfl rfl rfl, phase_eq_idle rfl, rfl, rfl⟩

/-! ### Commands and phases -/

/-- A GETRESULT on an idle block whose last answer was OK answers the same state. -/
theorem exec_getResult_of_answered {s : State} (hidle : s.segcnt = 0) (hok : s.answer = some .ok) :
    exec .getResult s = .next s := by
  refine (getResultIdleIsNoOp s hidle).trans ?_
  rw [← hok]

/-- A CONFIGURE that is answered OK leaves SEGCNT = 0. -/
theorem segcnt_of_configure_ok {c : BitVec 16} {s t : State} (h : exec (.configure c) s = .next t)
    (hok : t.answer = some .ok) : t.segcnt = 0 := by
  rcases exec_configure_cases c s with ⟨-, he⟩ | ⟨-, -, he⟩ | ⟨-, -, he⟩ <;> cases he.symm.trans h
  · cases hok
  · cases hok
  · rfl

/-- Settles O9: none of CONFIGURE's outcomes writes BIN; one answered OK leaves an idle block. -/
theorem configureLeavesStaleBins : Obligations.ConfigureLeavesStaleBins := by
  intro c s t h
  refine ⟨fun i => ?_, fun hok => exec_getResult_of_answered (segcnt_of_configure_ok h hok) hok⟩
  rcases exec_configure_cases c s with ⟨-, he⟩ | ⟨-, -, he⟩ | ⟨-, -, he⟩ <;> cases he.symm.trans h <;> rfl

/-- A CONFIGURE with good operands succeeds (R121). -/
theorem exec_configure_good {c : BitVec 16} {s : State} (hc : c ≠ 0 ∧ c.toNat ≤ s.maxn) (hfs : s.argFs ≠ 0) :
    exec (.configure c) s = .next (answerOk (applyConfig c s)) := by
  have hcases := exec_configure_cases c s
  simp only [← Nat.not_lt] at hcases hc
  tauto

/-- Settles O10: neither outcome changes MAXN or ARG_FS, so the second CONFIGURE has the same outcome and writes the same. -/
theorem configureIsIdempotent : Obligations.ConfigureIsIdempotent := by
  refine fun c s t h => ⟨?_, fun hok => phase_eq_idle (segcnt_of_configure_ok h hok)⟩
  rcases exec_configure_cases c s with ⟨hbad, he⟩ | ⟨⟨hne, hle⟩, hfs, he⟩ | ⟨hc, hfs, he⟩ <;> cases he.symm.trans h
  · exact exec_configure_badCount (s := raiseFault .cfgCount _ s) hbad
  · exact exec_configure_zeroFreq (s := raiseFault .cfgFreq _ s) hne hle hfs
  · exact exec_configure_good (s := answerOk (applyConfig c s)) hc hfs

/-- Settles O13: the three faults of ACCUMULATE, each before the first write. -/
theorem accumulateFaultsInOrder : Obligations.AccumulateFaultsInOrder := fun _ =>
  ⟨exec_accumulate_unconfigured, exec_accumulate_underrun, fun hn hfull hmax =>
    exec_accumulate_overflow hn hfull (BitVec.eq_of_toNat_eq hmax)⟩

/-- Settles O26: GETRESULT leaves an idle block, answered OK, from each of its outcomes. -/
theorem secondGetResultChangesNothing : Obligations.SecondGetResultChangesNothing := by
  intro s
  rcases exec_getResult_cases s with ⟨hidle, he⟩ | ⟨-, he⟩
  · exact ⟨_, he, exec_getResult_of_answered hidle rfl, phase_eq_idle hidle⟩
  · exact ⟨_, he, exec_getResult_of_answered rfl rfl, phase_eq_idle rfl⟩

/-- SEGCNT counts up by one where it is below its maximum. -/
theorem toNat_add_one_of_ne_max {k : Word} (hk : k ≠ 0xFFFFFFFF) : (k + 1).toNat = k.toNat + 1 := by
  have hne : k.toNat ≠ 0xFFFFFFFF := fun h => hk (BitVec.eq_of_toNat_eq h)
  have hlt := k.isLt
  rw [BitVec.toNat_add, show (1 : Word).toNat = 1 from rfl, Nat.mod_eq_of_lt (by omega)]

/-- The phase after a segment is counted (R28). -/
theorem phase_of_toNat_eq_succ {s : State} {k : Nat} (h : s.segcnt.toNat = k + 1) : phase s = .accumulating (k + 1) := by
  have hne : s.segcnt ≠ 0 := fun h0 => by simp [h0] at h
  rw [phase, if_neg hne, h]

/-- Settles O45: by what the command has done; one that entered a fault is answered ERR. -/
theorem phaseTransitionTable : Obligations.PhaseTransitionTable := by
  intro i s t h hok
  rcases exec_cases h with
    ⟨c, w, rfl⟩ | ⟨c, rfl, -, -, rfl⟩ | ⟨rfl, ⟨-, -, hmax⟩, rfl⟩ | ⟨rfl, hidle, rfl⟩ | ⟨rfl, -, rfl⟩ | ⟨rfl, rfl⟩
  · cases hok
  · exact phase_eq_idle rfl
  · have hcnt : (answerOk (accumulateSegment s)).segcnt.toNat = s.segcnt.toNat + 1 := by
      simpa using toNat_add_one_of_ne_max hmax
    exact ⟨hcnt, phase_of_toNat_eq_succ hcnt⟩
  · exact phase_eq_idle hidle
  · exact phase_eq_idle rfl
  · exact ⟨rfl, rfl⟩

end Sys2Proof.Machine
end

section
/-! PROOFS. Rounding to binary32 (00_scope.md rule R14): the significand and the spacing that `roundMag` chooses, what the
result stands for, and from where on it is an infinity. -/

namespace Sys2Proof.Machine

/-! ### The integer nearest to a quotient -/

/-- The quotient is kept below the middle of its two neighbours, and its successor taken above; a tie takes the even one. -/
theorem nearestEven_cases (n d : Nat) :
    (nearestEven n d = n / d ∧ (2 * (n % d) < d ∨ (2 * (n % d) = d ∧ n / d % 2 = 0))) ∨
    (nearestEven n d = n / d + 1 ∧ (d < 2 * (n % d) ∨ (2 * (n % d) = d ∧ n / d % 2 = 1))) := by
  unfold nearestEven
  split
  · next h => exact .inl ⟨rfl, h⟩
  · next h => exact .inr ⟨rfl, by omega⟩

theorem nearestEven_le {n d m : Nat} (h : n < m * d) : nearestEven n d ≤ m := by
  have hq : n / d < m := Nat.div_lt_of_lt_mul (by rwa [mul_comm])
  rcases nearestEven_cases n d with ⟨hk, -⟩ | ⟨hk, -⟩ <;> omega

theorem le_nearestEven {n d m : Nat} (hd : 0 < d) (h : m * d ≤ n) : m ≤ nearestEven n d := by
  have hq : m ≤ n / d := (Nat.le_div_iff_mul_le hd).2 h
  rcases nearestEven_cases n d with ⟨hk, -⟩ | ⟨hk, -⟩ <;> omega

/-- An even integer is reached from the middle below it on. -/
theorem succ_le_nearestEven_iff {n d m : Nat} (hd : 0 < d) (hm : m % 2 = 1) :
    m + 1 ≤ nearestEven n d ↔ (2 * m + 1) * d ≤ 2 * n := by
  have hn : n / d * d + n % d = n := Nat.div_add_mod' n d
  have hr : n % d < d := Nat.mod_lt n hd
  rcases lt_trichotomy (n / d) m with hlt | heq | hgt
  · have hnear : ¬ m + 1 ≤ nearestEven n d := by
      rcases nearestEven_cases n d with ⟨hk, -⟩ | ⟨hk, -⟩ <;> omega
    have hmul : (n / d + 1) * d ≤ m * d := Nat.mul_le_mul_right d hlt
    refine iff_of_false hnear (not_le.2 ?_)
    linarith
  · rw [heq] at hn
    have hmul : (2 * m + 1) * d = 2 * (m * d) + d := by ring
    rw [hmul]
    rcases nearestEven_cases n d with ⟨hk, hcase⟩ | ⟨hk, hcase⟩ <;> rw [hk, heq] <;> rw [heq] at hcase <;> omega
  · have hnear : m + 1 ≤ nearestEven n d := by
      rcases nearestEven_cases n d with ⟨hk, -⟩ | ⟨hk, -⟩ <;> omega
    have hmul : (m + 1) * d ≤ n / d * d := Nat.mul_le_mul_right d hgt
    have hfloor : n / d * d ≤ n := Nat.div_mul_le_self n d
    refine iff_of_true hnear ?_
    linarith

/-- The integer taken is at most one half away, and even if it is exactly that. Distances are scaled by `d`. -/
theorem nearestEven_error (n : Nat) {d : Nat} (hd : 0 < d) :
    2 * ((n : Int) - nearestEven n d * d).natAbs ≤ d ∧
    (2 * ((n : Int) - nearestEven n d * d).natAbs = d → nearestEven n d % 2 = 0) := by
  have hn : (n : Int) = (n / d : Nat) * d + (n % d : Nat) := by exact_mod_cast (Nat.div_add_mod' n d).symm
  have hr : n % d < d := Nat.mod_lt n hd
  rcases nearestEven_cases n d with ⟨hk, hcase⟩ | ⟨hk, hcase⟩ <;> rw [hk]
  · have hdiff : (n : Int) - (n / d : Nat) * d = (n % d : Nat) := by linarith
    rw [hdiff]
    omega
  · have hdiff : (n : Int) - (n / d + 1 : Nat) * d = (n % d : Nat) - d := by push_cast at hn ⊢; linarith
    rw [hdiff]
    omega

/-- No integer `j` is nearer to `n / d` than the one taken, and the one taken is even if another is as near: two integers are
at least one apart. -/
theorem nearestEven_nearest (n : Nat) {d : Nat} (hd : 0 < d) (j : Nat) :
    ((n : Int) - nearestEven n d * d).natAbs ≤ ((n : Int) - j * d).natAbs ∧
    (((n : Int) - nearestEven n d * d).natAbs = ((n : Int) - j * d).natAbs → j ≠ nearestEven n d →
      nearestEven n d % 2 = 0) := by
  obtain ⟨herr, htie⟩ := nearestEven_error n hd
  rcases eq_or_ne j (nearestEven n d) with rfl | hne
  · exact ⟨le_rfl, fun _ h => absurd rfl h⟩
  · have hapart : d ≤ ((j : Int) * d - nearestEven n d * d).natAbs := by
      rw [← sub_mul, Int.natAbs_mul, Int.natAbs_natCast]
      exact Nat.le_mul_of_pos_left d (by omega)
    exact ⟨by omega, fun heq _ => htie (by omega)⟩

/-! ### The significand and the spacing -/

/-- The integer significand `roundMag` takes: the quotient in units of its spacing, rounded. -/
def significand (num den : Nat) : Nat :=
  nearestEven (num * 2 ^ 149) (den * 2 ^ quantum (num * 2 ^ 149) den)

theorem roundMag_eq (num den : Nat) :
    roundMag num den = min (quantum (num * 2 ^ 149) den * 2 ^ 23 + significand num den) infMag := rfl

/-- In units of its spacing a quotient lies below 2^24, and from 2^23 on unless the spacing is the least. -/
theorem quantum_spec (n : Nat) {den : Nat} (hd : 0 < den) :
    n < 2 ^ 24 * (den * 2 ^ quantum n den) ∧ (quantum n den = 0 ∨ 2 ^ 23 * (den * 2 ^ quantum n den) ≤ n) := by
  have hassoc : ∀ k, 2 ^ k * (den * 2 ^ quantum n den) = 2 ^ (k + quantum n den) * den := fun k => by rw [pow_add]; ring
  rw [hassoc, hassoc, ← Nat.div_lt_iff_lt_mul hd, ← Nat.le_div_iff_mul_le hd]
  constructor
  · calc n / den < 2 ^ ((n / den).log2 + 1) := Nat.lt_log2_self
      _ ≤ 2 ^ (24 + quantum n den) := Nat.pow_le_pow_right (by decide) (by unfold quantum; omega)
  · by_cases hq : quantum n den = 0
    · exact .inl hq
    · have hlog : 23 + quantum n den = (n / den).log2 := by unfold quantum at hq ⊢; omega
      have hne : n / den ≠ 0 := fun h0 => hq (by simp [quantum, h0])
      exact .inr (hlog ▸ Nat.log2_self_le hne)

theorem significand_le (num : Nat) {den : Nat} (hd : 0 < den) : significand num den ≤ 2 ^ 24 :=
  nearestEven_le (quantum_spec _ hd).1

/-- Off the least spacing the significand has its leading bit. -/
theorem le_significand (num : Nat) {den : Nat} (hd : 0 < den) :
    quantum (num * 2 ^ 149) den = 0 ∨ 2 ^ 23 ≤ significand num den :=
  (quantum_spec _ hd).2.imp_right fun h => le_nearestEven (by positivity) h

/-- The value of the pattern made from a significand and a spacing; a significand of 2^24 has carried into the exponent. -/
theorem scaled_pack_le {s : Bool} {m q : Nat} (hm : m ≤ 2 ^ 24) (hq : q = 0 ∨ 2 ^ 23 ≤ m) (hi : q * 2 ^ 23 + m < infMag) :
    scaled (pack s (q * 2 ^ 23 + m)) = m * 2 ^ q := by
  rcases Nat.lt_or_eq_of_le hm with hlt | rfl
  · exact (scaled_pack hlt hq hi).1
  · have hcarry : q * 2 ^ 23 + 2 ^ 24 = (q + 1) * 2 ^ 23 + 2 ^ 23 := by ring
    rw [hcarry] at hi ⊢
    rw [(scaled_pack (by decide) (.inr le_rfl) hi).1, pow_succ]
    ring

/-! ### Finite results and infinities -/

theorem isFinite_pack {s : Bool} {m : Nat} (hm : m < 2 ^ 31) : isFinite (pack s m) = true ↔ m < infMag := by
  rw [isFinite_iff, expField_pack hm, infMag]
  omega

theorem isInf_pack {s : Bool} {m : Nat} (hm : m ≤ infMag) : isInf (pack s m) = true ↔ m = infMag := by
  unfold infMag at hm ⊢
  have hlt : m < 2 ^ 31 := by omega
  rw [isInf_iff, expField_pack hlt, fracField_pack hlt]
  omega

/-- A quotient rounds to an infinity exactly from 2^128 - 2^103 on. -/
theorem roundMag_eq_infMag_iff (num : Nat) {den : Nat} (hd : 0 < den) :
    roundMag num den = infMag ↔ (2 ^ 128 - 2 ^ 103) * den ≤ num := by
  obtain ⟨hup, hlow⟩ := quantum_spec (num * 2 ^ 149) hd
  have hle := significand_le num hd
  have hge := le_significand num hd
  rw [roundMag_eq, min_eq_right_iff, infMag]
  rcases lt_trichotomy (quantum (num * 2 ^ 149) den) 253 with hq | hq | hq
  · have hpow : den * 2 ^ quantum (num * 2 ^ 149) den ≤ den * 2 ^ 252 :=
      Nat.mul_le_mul_left _ (Nat.pow_le_pow_right (by decide) (by omega))
    refine iff_of_false (by omega) ?_
    omega
  · have hcarry := succ_le_nearestEven_iff (n := num * 2 ^ 149) (d := den * 2 ^ 253) (m := 2 ^ 24 - 1) (by positivity)
      (by decide)
    have hsig : significand num den = nearestEven (num * 2 ^ 149) (den * 2 ^ 253) := by rw [significand, hq]
    rw [hq]
    omega
  · have hpow : den * 2 ^ 254 ≤ den * 2 ^ quantum (num * 2 ^ 149) den :=
      Nat.mul_le_mul_left _ (Nat.pow_le_pow_right (by decide) (by omega))
    refine iff_of_true (by omega) ?_
    omega

theorem isInf_rnd32_iff (s : Bool) (num : Nat) {den : Nat} (hd : 0 < den) :
    isInf (rnd32 s num den) = true ↔ (2 ^ 128 - 2 ^ 103) * den ≤ num :=
  (isInf_pack (roundMag_le num den)).trans (roundMag_eq_infMag_iff num hd)

theorem isFinite_rnd32_iff (s : Bool) (num : Nat) {den : Nat} (hd : 0 < den) :
    isFinite (rnd32 s num den) = true ↔ num < (2 ^ 128 - 2 ^ 103) * den := by
  have hle := roundMag_le num den
  rw [← not_le, ← roundMag_eq_infMag_iff num hd]
  exact (isFinite_pack (roundMag_lt num den)).trans (by omega)

/-- Settles O50: a result is packed from its sign and at most the infinity's pattern. -/
theorem overflowThreshold : Obligations.OverflowThreshold := fun sign num den hd =>
  ⟨isInf_rnd32_iff sign num hd, isNaN_rnd32 sign num den, signBit_rnd32 sign num den⟩

/-! ### The value of a finite result -/

/-- A finite result is its significand times its spacing, and its fraction is the significand's. -/
theorem rnd32_value {s : Bool} {num den : Nat} (hd : 0 < den) (hfin : isFinite (rnd32 s num den) = true) :
    scaled (rnd32 s num den) = significand num den * 2 ^ quantum (num * 2 ^ 149) den ∧
    fracField (rnd32 s num den) % 2 = significand num den % 2 := by
  have hlt := (isFinite_pack (roundMag_lt num den)).1 hfin
  have heq : roundMag num den = quantum (num * 2 ^ 149) den * 2 ^ 23 + significand num den := by
    have := roundMag_eq num den
    omega
  rw [rnd32, fracField_pack (roundMag_lt num den)]
  rw [heq] at hlt ⊢
  exact ⟨scaled_pack_le (significand_le num hd) (le_significand num hd) hlt, by omega⟩

/-- A value of at most 24 significant bits is a significand and a spacing of the format. -/
theorem exists_normalised {m : Nat} (q : Nat) (hm : m < 2 ^ 24) :
    ∃ m' q', m * 2 ^ q = m' * 2 ^ q' ∧ m' < 2 ^ 24 ∧ (q' = 0 ∨ 2 ^ 23 ≤ m') := by
  induction q generalizing m with
  | zero => exact ⟨m, 0, rfl, hm, .inl rfl⟩
  | succ q ih =>
    by_cases hlead : 2 ^ 23 ≤ m
    · exact ⟨m, q + 1, rfl, hm, .inr hlead⟩
    · obtain ⟨m', q', hval, hrest⟩ := ih (m := 2 * m) (by omega)
      exact ⟨m', q', by rw [← hval, pow_succ]; ring, hrest⟩

/-- A quotient with at most 24 significant bits is rounded to itself, unless it overflows. -/
theorem scaled_rnd32_exact {s : Bool} {num den m q : Nat} (hd : 0 < den) (hval : num * 2 ^ 149 = m * 2 ^ q * den)
    (hm : m < 2 ^ 24) (hfin : isFinite (rnd32 s num den) = true) : scaled (rnd32 s num den) = m * 2 ^ q := by
  obtain ⟨m', q', hnorm, hm', hq'⟩ := exists_normalised q hm
  have hmag : roundMag num den = min (q' * 2 ^ 23 + m') infMag :=
    roundMag_exact hd (by rw [hval, hnorm]; ring) hm' hq'
  have hlt := (isFinite_pack (roundMag_lt num den)).1 hfin
  have heq : roundMag num den = q' * 2 ^ 23 + m' := by omega
  rw [rnd32, heq, (scaled_pack hm' hq' (heq ▸ hlt)).1, hnorm]

/-- A finite pattern's value rounds to the pattern, in whatever fraction it is written. -/
theorem rnd32_scaled {p : Word} (hp : isFinite p = true) {num den : Nat} (hd : 0 < den)
    (hval : num * 2 ^ 149 = scaled p * den) : rnd32 (signBit p) num den = p := by
  obtain ⟨m, q, hscaled, hm, hq, hpat, hlt⟩ := scaled_decomp hp
  rw [rnd32, roundMag_exact hd (by rw [hval, hscaled]; ring) hm hq, min_eq_left hlt.le, ← hpat, pack_signBit]

/-- Settles O49: the value of a pattern is that of `rnd32_scaled`, written over 2^149. -/
theorem roundingKeepsRepresentable : Obligations.RoundingKeepsRepresentable := fun _ hp =>
  rnd32_scaled hp (by positivity) rfl

/-- A finite number has one pattern for each sign. -/
theorem eq_of_scaled_eq {p q : Word} (hp : isFinite p = true) (hq : isFinite q = true) (hsign : signBit p = signBit q)
    (hval : scaled p = scaled q) : p = q := by
  rw [← rnd32_scaled hp (Nat.two_pow_pos 149) rfl, hsign, hval]
  exact rnd32_scaled hq (Nat.two_pow_pos 149) rfl

theorem natAbs_sub_lt {n a b : Nat} (hab : a < b) (hb : b ≤ n) : ((n : Int) - b).natAbs < ((n : Int) - a).natAbs := by
  omega

/-- Settles O48: a number on the grid of the result's spacing is no nearer than the significand taken; a number of a finer
grid lies below the least significand with a leading bit, which is on the result's grid and strictly nearer. -/
theorem roundingIsToNearestEven : Obligations.RoundingIsToNearestEven := by
  intro num den p hd hfin hp hsign r err
  obtain ⟨hval, hfrac⟩ := rnd32_value hd hfin
  obtain ⟨m, e, hscaled, hm, -⟩ := scaled_decomp hp
  let q := quantum (num * 2 ^ 149) den
  let D := den * 2 ^ q
  have hD : 0 < D := by positivity
  have hnear := nearestEven_nearest (num * 2 ^ 149) hD
  have herr : ∀ {w : Word} {j : Nat}, scaled w = j * 2 ^ q → err w = (((num * 2 ^ 149 : Nat) : Int) - j * D).natAbs := by
    intro w j hw
    simp only [err, hw, D]
    push_cast
    ring_nf
  rw [herr hval]
  change _ ∧ (_ → _ → fracField (rnd32 false num den) % 2 = 0)
  rw [hfrac]
  rcases Nat.lt_or_ge e q with hlt | hge
  · have hlead : 2 ^ 23 * D ≤ num * 2 ^ 149 := (quantum_spec (num * 2 ^ 149) hd).2.resolve_left (Nat.ne_zero_of_lt hlt)
    have hbelow : scaled p * den < 2 ^ 23 * D := by
      calc scaled p * den = m * (2 ^ e * den) := by rw [hscaled, mul_assoc]
        _ < 2 ^ 24 * (2 ^ e * den) := Nat.mul_lt_mul_of_pos_right hm (by positivity)
        _ = 2 ^ 23 * (den * 2 ^ (e + 1)) := by rw [pow_succ]; ring
        _ ≤ 2 ^ 23 * D := Nat.mul_le_mul_left _ (Nat.mul_le_mul_left _ (Nat.pow_le_pow_right (by decide) hlt))
    have hstrict : (((num * 2 ^ 149 : Nat) : Int) - (2 ^ 23 : Nat) * D).natAbs < err p := by
      have hlt := natAbs_sub_lt hbelow hlead
      push_cast at hlt ⊢
      exact hlt
    have hfar := lt_of_le_of_lt (hnear (2 ^ 23)).1 hstrict
    exact ⟨hfar.le, fun heq => absurd heq hfar.ne⟩
  · have hgrid : scaled p = m * 2 ^ (e - q) * 2 ^ q := by
      rw [hscaled, mul_assoc, ← pow_add, Nat.sub_add_cancel hge]
    obtain ⟨hle, htie⟩ := hnear (m * 2 ^ (e - q))
    rw [herr hgrid]
    refine ⟨hle, fun heq hne => htie heq fun hj => hne ?_⟩
    refine eq_of_scaled_eq hfin hp ((signBit_rnd32 _ _ _).trans hsign.symm) ?_
    rw [hval, hgrid, hj]
    rfl

/-! ### Conversions -/

/-- An integer of at most 24 bits converts to itself. -/
theorem rnd32_integer (s : Bool) {n : Nat} (hn : n < 2 ^ 24) :
    isFinite (rnd32 s n 1) = true ∧ scaled (rnd32 s n 1) = n * 2 ^ 149 := by
  have hfin : isFinite (rnd32 s n 1) = true := (isFinite_rnd32_iff s n one_pos).2 (by omega)
  exact ⟨hfin, scaled_rnd32_exact one_pos (by ring) hn hfin⟩

/-- A 32-bit count from 1 converts to a finite number of at least 1 (R150, R175). -/
theorem f32OfNat_count {n : Nat} (hlo : 1 ≤ n) (hhi : n < 2 ^ 32) :
    isFinite (f32OfNat n) = true ∧ signBit (f32OfNat n) = false ∧ 2 ^ 149 ≤ scaled (f32OfNat n) := by
  have hfin : isFinite (f32OfNat n) = true := (isFinite_rnd32_iff false n one_pos).2 (by omega)
  refine ⟨hfin, signBit_rnd32 _ _ _, ?_⟩
  have hspacing : 126 ≤ quantum (n * 2 ^ 149) 1 := by
    by_contra hlt
    have hpow : 2 ^ quantum (n * 2 ^ 149) 1 ≤ 2 ^ 125 := Nat.pow_le_pow_right (by decide) (by omega)
    have hup := (quantum_spec (n * 2 ^ 149) one_pos).1
    omega
  have hlead : 2 ^ 23 ≤ significand n 1 := (le_significand n one_pos).resolve_left (by omega)
  rw [f32OfNat, (rnd32_value one_pos hfin).1]
  calc 2 ^ 149 = 2 ^ 23 * 2 ^ 126 := by norm_num
    _ ≤ _ := Nat.mul_le_mul hlead (Nat.pow_le_pow_right (by decide) hspacing)

/-- Settles O51: the exact conversions, the bounds, and the two examples evaluated. -/
theorem conversionOfCounts : Obligations.ConversionOfCounts :=
  ⟨fun _ => rnd32_integer false, fun _ => f32OfNat_count, by decide, by decide⟩

/-- `cvt_i` is exact on integers of at most 24 bits (R14). -/
theorem f32OfInt_exact {d : Int} (hd : d.natAbs < 2 ^ 24) :
    isFinite (f32OfInt d) = true ∧ scaledInt (f32OfInt d) = d * 2 ^ 149 := by
  obtain ⟨hfin, hval⟩ := rnd32_integer (decide (d < 0)) hd
  refine ⟨hfin, ?_⟩
  rw [scaledInt, f32OfInt, signBit_rnd32, hval, Nat.cast_mul]
  by_cases hneg : d < 0
  · have habs : (d.natAbs : Int) = -d := by omega
    rw [if_pos (decide_eq_true hneg), habs, Nat.cast_pow, neg_mul, neg_neg]
    rfl
  · have habs : (d.natAbs : Int) = d := by omega
    rw [if_neg (by simpa using hneg), habs, Nat.cast_pow]
    rfl

/-- Settles O20: both the sample and the mean are 16-bit values, so their difference has 17 bits and converts exactly. -/
theorem differenceConvertsExactly : Obligations.DifferenceConvertsExactly := by
  intro n k xs hn hmax hlen hk d
  obtain ⟨hmlo, hmhi⟩ := segmentMean_bounds hn hlen
  obtain ⟨hslo, hshi⟩ := intOf_bounds (xs.getD k 0)
  unfold intOf at hslo hshi
  have hd : -65535 ≤ d ∧ d ≤ 65535 := by omega
  obtain ⟨hfin, hval⟩ := f32OfInt_exact (d := d) (by omega)
  exact ⟨hd.1, hd.2, hfin, hval, fun h0 => by rw [h0]; rfl⟩

/-! ### NaN patterns and special values -/

/-- A NaN pattern drawn as it stands is itself (U4). -/
theorem nanPattern_of_isNaN {p : Word} (hp : isNaN p = true) : nanPattern p = p := by
  have hlt := p.isLt
  rw [isNaN_iff, expField_eq, fracField_eq] at hp
  rw [← BitVec.toNat_inj, nanPattern_toNat, if_neg hp.2]
  omega

/-- Settles O53: drawn bits make a NaN, and each NaN pattern is made from its own bits. -/
theorem drawnPatternsAreTheNaNs : Obligations.DrawnPatternsAreTheNaNs :=
  ⟨isNaN_drawnNaN, fun p hp => ⟨p, nanPattern_of_isNaN hp⟩⟩

end Sys2Proof.Machine
end

section
/-! PROOFS. The five primitives on special values (00_scope.md rule R14), and on the numbers a power or a running sum can be:
non-negative ones, scaled by finite positive divisors and factors (41_accumulate.md rule R155, 42_getresult.md rule R176). -/

namespace Sys2Proof.Machine

/-! ### Special values -/

theorem isNaN_eq_false_of_isZero {p : Word} (h : isZero p = true) : isNaN p = false := by
  rw [isZero_iff] at h
  simp [isNaN, h]

theorem isInf_eq_false_of_isZero {p : Word} (h : isZero p = true) : isInf p = false := by
  rw [isZero_iff] at h
  simp [isInf, h]

/-- A NaN operand gives the NaN drawn. -/
theorem primitives_of_isNaN {a b : Word} (nan : Word) (h : isNaN a = true ∨ isNaN b = true) :
    f32Mul nan a b = nan ∧ f32Div nan a b = nan ∧ f32Add nan a b = nan := by
  have hor : (isNaN a || isNaN b) = true := by simpa using h
  simp [f32Mul, f32Div, f32Add, hor]

/-- A nonzero number over a zero is an infinity with the sign of the quotient. -/
theorem f32Div_zero_divisor {nan a b : Word} (ha : isFinite a = true) (hne : isZero a = false) (hb : isZero b = true) :
    f32Div nan a b = pack (signBit a ^^ signBit b) infMag := by
  simp [f32Div, isNaN_eq_false_of_finite ha, isInf_eq_false_of_finite ha, isNaN_eq_false_of_isZero hb,
    isInf_eq_false_of_isZero hb, hne, hb]

/-- The pattern of the opposite number has the other sign and the same magnitude. -/
theorem flipSign_fields (a : Word) :
    signBit (a ^^^ 0x80000000) = !signBit a ∧ expField (a ^^^ 0x80000000) = expField a ∧
    fracField (a ^^^ 0x80000000) = fracField a := by
  refine ⟨by simp [signBit], ?_, ?_⟩
  · simp [expField, BitVec.extractLsb'_xor]
  · simp [fracField, BitVec.extractLsb'_xor]

/-- A zero quotient rounds to the zero of its sign. -/
theorem rnd32_zero (s : Bool) {den : Nat} (hd : 0 < den) : rnd32 s 0 den = pack s 0 := by
  rw [rnd32, roundMag_zero hd]

/-- A number and its opposite add to +0. -/
theorem f32Add_flipSign {nan a : Word} (ha : isFinite a = true) : f32Add nan a (a ^^^ 0x80000000) = 0 := by
  obtain ⟨hsign, hexp, hfrac⟩ := flipSign_fields a
  have hfin : isFinite (a ^^^ 0x80000000) = true := by rwa [isFinite_iff, hexp, ← isFinite_iff]
  have hscaled : scaled (a ^^^ 0x80000000) = scaled a := by simp only [scaled, hexp, hfrac]
  have hsum : scaledInt a + scaledInt (a ^^^ 0x80000000) = 0 := by
    simp only [scaledInt, hsign, hscaled]
    cases signBit a <;> simp
  rw [f32Add_finite ha hfin, hsum]
  exact rnd32_zero false (by positivity)

/-- Settles O52: the branches of the three primitives, each named by its operands' kinds. -/
theorem specialValuesOfThePrimitives : Obligations.SpecialValuesOfThePrimitives := by
  intro nan a b hnan
  refine ⟨fun h => ?_, fun ha hb => ?_, fun ha hb => ?_, fun ha hb => ?_, fun ha hne hb => ?_, rfl, ?_, f32Add_flipSign⟩
  · obtain ⟨hmul, hdiv, hadd⟩ := primitives_of_isNaN nan h
    rw [hmul, hdiv, hadd]
    exact ⟨hnan, hnan, hnan⟩
  · simp [f32Mul, ha, hb, hnan]
  · simp [f32Div, ha, hb, hnan, isInf_eq_false_of_isZero]
  · simp [f32Div, ha, hb, hnan]
  · rw [f32Div_zero_divisor ha hne hb]
    exact ⟨(isInf_pack le_rfl).2 rfl, signBit_pack (by decide)⟩
  · exact hnan

/-! ### Non-negative numbers, and finite positive ones -/

/-- A number that is not negative: +0, positive or +infinity. -/
structure NonNeg (p : Word) : Prop where
  notNaN : isNaN p = false
  sign : signBit p = false

/-- A finite positive number, as every divisor of the block and CORR2 are. -/
structure FinPos (p : Word) : Prop where
  finite : isFinite p = true
  sign : signBit p = false
  nonzero : isZero p = false

theorem FinPos.scaled_pos {p : Word} (h : FinPos p) : 0 < scaled p := by
  refine Nat.pos_of_ne_zero fun h0 => ?_
  rw [scaled_eq_zero, h.nonzero] at h0
  cases h0

/-- The conversion of a 32-bit count from 1 (R150, R175). -/
theorem finPos_f32OfNat {n : Nat} (hlo : 1 ≤ n) (hhi : n < 2 ^ 32) : FinPos (f32OfNat n) := by
  obtain ⟨hfin, hsign, hval⟩ := f32OfNat_count hlo hhi
  refine ⟨hfin, hsign, ?_⟩
  rw [← Bool.not_eq_true, ← scaled_eq_zero]
  omega

theorem one_le_toNat {n : Nat} {x : BitVec n} (h : x ≠ 0) : 1 ≤ x.toNat :=
  Nat.pos_of_ne_zero fun h0 => h (BitVec.eq_of_toNat_eq h0)

theorem finPos_two : FinPos two := ⟨by decide, by decide, by decide⟩

/-- CORR2 under the constraints on the parameters (R9): its pattern lies between that of +0 and that of +infinity. -/
theorem finPos_corr2 {p : Params} (h : p.Legal) : FinPos p.corr2 := by
  obtain ⟨-, -, hne, hlt⟩ := h
  have hpos := one_le_toNat hne
  refine ⟨?_, ?_, ?_⟩
  · rw [isFinite_iff, expField_eq]
    omega
  · rw [signBit_eq, decide_eq_false_iff_not]
    omega
  · rw [← Bool.not_eq_true, isZero_iff, expField_eq, fracField_eq]
    omega

/-- A pattern up to that of +infinity is no NaN and not negative. -/
theorem nonNeg_pack {m : Nat} (h : m ≤ infMag) : NonNeg (pack false m) := by
  unfold infMag at h
  have hlt : m < 2 ^ 31 := by omega
  refine ⟨?_, signBit_pack hlt⟩
  rw [← Bool.not_eq_true, isNaN_iff, expField_pack hlt, fracField_pack hlt]
  omega

theorem nonNeg_rnd32 (num den : Nat) : NonNeg (rnd32 false num den) := nonNeg_pack (roundMag_le num den)

theorem nonNeg_posInf : NonNeg 0x7F800000 := ⟨by decide, by decide⟩

theorem nonNeg_zero : NonNeg 0 := ⟨by decide, by decide⟩

/-- An infinity is the one of its sign. -/
theorem eq_pack_of_isInf {p : Word} (h : isInf p = true) : p = pack (signBit p) infMag := by
  rw [isInf_iff] at h
  rw [← pack_signBit p, h.1, h.2, signBit_pack (by decide)]
  rfl

theorem NonNeg.posInf_or_finite {p : Word} (h : NonNeg p) : p = 0x7F800000 ∨ isFinite p = true := by
  cases hinf : isInf p with
  | true =>
    have hp := eq_pack_of_isInf hinf
    rw [h.sign] at hp
    exact .inl hp
  | false => exact .inr (isFinite_of_not h.notNaN hinf)

/-- +infinity times a finite positive number. -/
theorem f32Mul_posInf (nan : Word) {b : Word} (hb : FinPos b) : f32Mul nan 0x7F800000 b = 0x7F800000 := by
  unfold f32Mul
  rw [isNaN_eq_false_of_finite hb.finite, hb.nonzero, hb.sign]
  rfl

/-- +infinity over a finite positive number. -/
theorem f32Div_posInf (nan : Word) {b : Word} (hb : FinPos b) : f32Div nan 0x7F800000 b = 0x7F800000 := by
  unfold f32Div
  rw [isNaN_eq_false_of_finite hb.finite, isInf_eq_false_of_finite hb.finite, hb.sign]
  rfl

theorem f32Mul_finPos (nan : Word) {a b : Word} (ha : isFinite a = true) (hsign : signBit a = false) (hb : FinPos b) :
    f32Mul nan a b = rnd32 false (scaled a * scaled b) (2 ^ 149 * 2 ^ 149) := by
  rw [f32Mul_finite ha hb.finite, hsign, hb.sign]
  rfl

theorem f32Div_finPos (nan : Word) {a b : Word} (ha : isFinite a = true) (hsign : signBit a = false) (hb : FinPos b) :
    f32Div nan a b = rnd32 false (scaled a) (scaled b) := by
  rw [f32Div_finite ha hb.finite hb.nonzero, hsign, hb.sign]
  rfl

/-- A non-negative number times a finite positive one is non-negative, and no NaN is drawn. -/
theorem f32Mul_nonNeg {a b : Word} (ha : NonNeg a) (hb : FinPos b) : ∃ r, NonNeg r ∧ ∀ nan, f32Mul nan a b = r := by
  rcases ha.posInf_or_finite with rfl | hfin
  · exact ⟨_, nonNeg_posInf, fun nan => f32Mul_posInf nan hb⟩
  · exact ⟨_, nonNeg_rnd32 _ _, fun nan => f32Mul_finPos nan hfin ha.sign hb⟩

/-- A non-negative number over a finite positive one is non-negative, and no NaN is drawn. -/
theorem f32Div_nonNeg {a b : Word} (ha : NonNeg a) (hb : FinPos b) : ∃ r, NonNeg r ∧ ∀ nan, f32Div nan a b = r := by
  rcases ha.posInf_or_finite with rfl | hfin
  · exact ⟨_, nonNeg_posInf, fun nan => f32Div_posInf nan hb⟩
  · exact ⟨_, nonNeg_rnd32 _ _, fun nan => f32Div_finPos nan hfin ha.sign hb⟩

/-- A square is non-negative, and no NaN is drawn unless the number is one. -/
theorem f32Mul_self_nonNeg {m : Word} (hm : isNaN m = false) : ∃ r, NonNeg r ∧ ∀ nan, f32Mul nan m m = r := by
  cases hinf : isInf m with
  | true =>
    have hzero : isZero m = false := by
      rw [← Bool.not_eq_true]
      intro h
      rw [isInf_eq_false_of_isZero h] at hinf
      cases hinf
    exact ⟨_, nonNeg_posInf, fun nan => by simp [f32Mul, hm, hinf, hzero]; rfl⟩
  | false =>
    have hfin := isFinite_of_not hm hinf
    exact ⟨_, nonNeg_rnd32 _ _, fun nan => by rw [f32Mul_finite hfin hfin, Bool.xor_self]⟩

/-! ### Zero -/

theorem f32Mul_zero_left (nan : Word) {b : Word} (hb : FinPos b) : f32Mul nan 0 b = 0 := by
  rw [f32Mul_finPos nan (by decide) (by decide) hb, show scaled 0 = 0 from rfl, Nat.zero_mul]
  exact rnd32_zero false (by positivity)

theorem f32Div_zero_left (nan : Word) {b : Word} (hb : FinPos b) : f32Div nan 0 b = 0 := by
  rw [f32Div_finPos nan (by decide) (by decide) hb, show scaled 0 = 0 from rfl]
  exact rnd32_zero false hb.scaled_pos

/-- Adding two non-negative finite numbers. -/
theorem f32Add_nonneg (nan : Word) {a b : Word} (ha : isFinite a = true) (hb : isFinite b = true)
    (hsa : signBit a = false) (hsb : signBit b = false) :
    f32Add nan a b = rnd32 false (scaled a + scaled b) (2 ^ 149) := by
  rw [f32Add_finite ha hb, scaledInt, scaledInt, hsa, hsb]
  rfl

/-- The sum of two non-negative numbers is non-negative, and no NaN is drawn. -/
theorem f32Add_nonNeg {a b : Word} (ha : NonNeg a) (hb : NonNeg b) : ∃ r, NonNeg r ∧ ∀ nan, f32Add nan a b = r := by
  cases hia : isInf a with
  | true => exact ⟨a, ha, fun nan => by simp [f32Add, ha.notNaN, hb.notNaN, ha.sign, hb.sign, hia]⟩
  | false =>
    cases hib : isInf b with
    | true => exact ⟨b, hb, fun nan => by simp [f32Add, ha.notNaN, hb.notNaN, hia, hib]⟩
    | false =>
      exact ⟨_, nonNeg_rnd32 _ _, fun nan =>
        f32Add_nonneg nan (isFinite_of_not ha.notNaN hia) (isFinite_of_not hb.notNaN hib) ha.sign hb.sign⟩

/-- Adding a number to +0 gives the number: the first segment's power is the bin (R145, R152). -/
theorem f32Add_zero_left (nan : Word) {p : Word} (hp : NonNeg p) : f32Add nan 0 p = p := by
  rcases hp.posInf_or_finite with rfl | hfin
  · rfl
  · have hval := rnd32_scaled hfin (Nat.two_pow_pos 149) rfl
    rw [hp.sign] at hval
    rw [f32Add_nonneg nan (by decide) hfin (by decide) hp.sign, show scaled 0 = 0 from rfl, Nat.zero_add, hval]

/-- Adding +0 to a number other than -0 gives the number. -/
theorem f32Add_zero_right (nan : Word) {p : Word} (hp : isNaN p = false) (hne : p ≠ 0x80000000) :
    f32Add nan p 0 = p := by
  cases hinf : isInf p with
  | true =>
    unfold f32Add
    rw [hp, hinf]
    rfl
  | false =>
    have hfin := isFinite_of_not hp hinf
    have hsign : decide (scaledInt p < 0) = signBit p := by
      unfold scaledInt
      cases hs : signBit p with
      | false => simp
      | true =>
        have hpos : scaled p ≠ 0 := fun h0 => hne (by
          refine eq_of_scaled_eq hfin (by decide) (hs.trans (by decide)) (h0.trans (by decide)))
        simpa using Nat.pos_of_ne_zero hpos
    have habs : (scaledInt p).natAbs = scaled p := by
      unfold scaledInt
      split <;> simp
    rw [f32Add_finite hfin (by decide), show scaledInt 0 = 0 by decide, add_zero, hsign, habs]
    exact rnd32_scaled hfin (Nat.two_pow_pos 149) rfl

/-! ### Doubling and halving -/

/-- Twice a finite value is exact, unless it overflows, in whatever fraction it is written. -/
theorem scaled_rnd32_double {s : Bool} {p : Word} (hp : isFinite p = true) {num den : Nat} (hd : 0 < den)
    (hval : num * 2 ^ 149 = 2 * scaled p * den) (hfin : isFinite (rnd32 s num den) = true) :
    scaled (rnd32 s num den) = 2 * scaled p := by
  obtain ⟨m, q, hscaled, hm, -⟩ := scaled_decomp hp
  have hdouble : 2 * scaled p = m * 2 ^ (q + 1) := by rw [hscaled, pow_succ]; ring
  rw [hdouble] at hval ⊢
  exact scaled_rnd32_exact hd hval hm hfin

/-- A finite sum of a non-negative number and itself is exactly twice the number. -/
theorem scaled_f32Add_self {nan p : Word} (hp : isFinite p = true) (hsign : signBit p = false)
    (hfin : isFinite (f32Add nan p p) = true) : scaled (f32Add nan p p) = 2 * scaled p := by
  rw [f32Add_nonneg nan hp hp hsign hsign] at hfin ⊢
  exact scaled_rnd32_double hp (by positivity) (by ring) hfin

/-- A finite product of a non-negative number with 2.0 is exactly twice the number. -/
theorem scaled_f32Mul_two {nan p : Word} (hp : NonNeg p) (hfin : isFinite (f32Mul nan p two) = true) :
    scaled (f32Mul nan p two) = 2 * scaled p := by
  rcases hp.posInf_or_finite with rfl | hpfin
  · rw [f32Mul_posInf nan finPos_two] at hfin
    cases hfin
  · rw [f32Mul_finPos nan hpfin hp.sign finPos_two] at hfin ⊢
    have htwo : scaled two = 2 * 2 ^ 149 := by decide
    exact scaled_rnd32_double hpfin (by positivity) (by rw [htwo]; ring) hfin

/-- A number over a number whose value is `k` is that number again if its `k`-fold was given. -/
theorem f32Div_count {nan a p : Word} {k : Nat} (hlo : 1 ≤ k) (hhi : k < 2 ^ 24) (ha : isFinite a = true)
    (hsa : signBit a = false) (hp : isFinite p = true) (hsp : signBit p = false) (hval : scaled a = k * scaled p) :
    f32Div nan a (f32OfNat k) = p := by
  have hk : FinPos (f32OfNat k) := finPos_f32OfNat hlo (by omega)
  have hround := rnd32_scaled hp hk.scaled_pos (num := scaled a) (by
    rw [hval, f32OfNat, (rnd32_integer false hhi).2]
    ring)
  rw [f32Div_finPos nan ha hsa hk, ← hround, hsp]

/-- Settles O27: the sum is exactly twice the power, and half of that is the power's own value. -/
theorem halfOfDoubledPowerIsThePower : Obligations.HalfOfDoubledPowerIsThePower := by
  intro p nan nan' hp hsign hfin
  have hsum : signBit (f32Add nan p p) = false := by
    rw [f32Add_nonneg nan hp hp hsign hsign, signBit_rnd32]
  exact f32Div_count one_le_two (by decide) hfin hsum hp hsign (scaled_f32Add_self hp hsign hfin)

/-! ### Running sums -/

theorem sumShaped_iff (p : Word) : sumShaped p = true ↔ isNaN p = true ∨ signBit p = false := by
  simp [sumShaped]

theorem NonNeg.sumShaped {p : Word} (h : NonNeg p) : sumShaped p = true := (sumShaped_iff p).2 (.inr h.sign)

theorem sumShaped_of_isNaN {p : Word} (h : isNaN p = true) : sumShaped p = true := (sumShaped_iff p).2 (.inl h)

theorem sumShaped_cases {p : Word} (h : sumShaped p = true) : isNaN p = true ∨ NonNeg p := by
  rw [sumShaped_iff] at h
  cases hn : isNaN p with
  | true => exact .inl rfl
  | false => exact .inr ⟨hn, h.resolve_left (by simp [hn])⟩

/-- The sum of two running sums is one. -/
theorem sumShaped_f32Add {nan a b : Word} (hnan : isNaN nan = true) (ha : sumShaped a = true) (hb : sumShaped b = true) :
    sumShaped (f32Add nan a b) = true := by
  rcases sumShaped_cases ha with hna | hna
  · rw [(primitives_of_isNaN nan (.inl hna)).2.2]
    exact sumShaped_of_isNaN hnan
  rcases sumShaped_cases hb with hnb | hnb
  · rw [(primitives_of_isNaN nan (.inr hnb)).2.2]
    exact sumShaped_of_isNaN hnan
  obtain ⟨r, hr, hadd⟩ := f32Add_nonNeg hna hnb
  rw [hadd]
  exact hr.sumShaped

/-- A running sum times a finite positive number is shaped like one. -/
theorem sumShaped_f32Mul {nan a b : Word} (hnan : isNaN nan = true) (ha : sumShaped a = true) (hb : FinPos b) :
    sumShaped (f32Mul nan a b) = true := by
  rcases sumShaped_cases ha with hna | hna
  · rw [(primitives_of_isNaN nan (.inl hna)).1]
    exact sumShaped_of_isNaN hnan
  · obtain ⟨r, hr, hmul⟩ := f32Mul_nonNeg hna hb
    rw [hmul]
    exact hr.sumShaped

/-- A running sum over a finite positive number is shaped like one. -/
theorem sumShaped_f32Div {nan a b : Word} (hnan : isNaN nan = true) (ha : sumShaped a = true) (hb : FinPos b) :
    sumShaped (f32Div nan a b) = true := by
  rcases sumShaped_cases ha with hna | hna
  · rw [(primitives_of_isNaN nan (.inl hna)).2.1]
    exact sumShaped_of_isNaN hnan
  · obtain ⟨r, hr, hdiv⟩ := f32Div_nonNeg hna hb
    rw [hdiv]
    exact hr.sumShaped

/-- A square is shaped like a running sum. -/
theorem sumShaped_f32Mul_self {nan : Word} (hnan : isNaN nan = true) (m : Word) : sumShaped (f32Mul nan m m) = true := by
  cases hm : isNaN m with
  | true =>
    rw [(primitives_of_isNaN nan (.inl hm)).1]
    exact sumShaped_of_isNaN hnan
  | false =>
    obtain ⟨r, hr, hmul⟩ := f32Mul_self_nonNeg hm
    rw [hmul]
    exact hr.sumShaped

/-! ### The power of a bin (R152) -/

/-- For a magnitude that is no NaN: the power of bin 0 and, doubled, that of every other bin, whatever is drawn. -/
theorem binPower_nonNeg {fsf nf m : Word} (hfs : FinPos fsf) (hn : FinPos nf) (hm : isNaN m = false) :
    ∃ p0 p1, NonNeg p0 ∧ NonNeg p1 ∧ (∀ nan, f32Mul nan p0 two = p1) ∧
      ∀ d i, binPower binary32 d fsf nf i m = if i = 0 then p0 else p1 := by
  obtain ⟨t1, ht1, hsq⟩ := f32Mul_self_nonNeg hm
  obtain ⟨t2, ht2, hdiv⟩ := f32Div_nonNeg ht1 hfs
  obtain ⟨p0, hp0, hdiv'⟩ := f32Div_nonNeg ht2 hn
  obtain ⟨p1, hp1, hdouble⟩ := f32Mul_nonNeg hp0 finPos_two
  exact ⟨p0, p1, hp0, hp1, hdouble, fun d i => by simp only [binPower, binary32, hsq, hdiv, hdiv', hdouble]⟩

/-- A magnitude of +0 has the power +0 (R158). -/
theorem binPower_zero {fsf nf : Word} (hfs : FinPos fsf) (hn : FinPos nf) (d i : Nat) :
    binPower binary32 d fsf nf i 0 = 0 := by
  have hsq : ∀ nan, f32Mul nan 0 0 = 0 := fun _ => rfl
  simp only [binPower, binary32, hsq, f32Div_zero_left _ hfs, f32Div_zero_left _ hn, f32Mul_zero_left _ finPos_two,
    ite_self]

/-- A power is shaped like a running sum, whatever the magnitude (R155). -/
theorem sumShaped_binPower {fsf nf : Word} (hfs : FinPos fsf) (hn : FinPos nf) (d i : Nat) (m : Word) :
    sumShaped (binPower binary32 d fsf nf i m) = true := by
  have hsq := sumShaped_f32Mul_self (isNaN_drawnNaN d i 0) m
  have hdiv := sumShaped_f32Div (isNaN_drawnNaN d i 1) hsq hfs
  have hdiv' := sumShaped_f32Div (isNaN_drawnNaN d i 2) hdiv hn
  unfold binPower
  split
  · exact hdiv'
  · exact sumShaped_f32Mul (isNaN_drawnNaN d i 3) hdiv' finPos_two

/-- Settles O21: both powers are those of `binPower_nonNeg`, and the last operation is an exact doubling. -/
theorem powerIsDoubledAboveBinZero : Obligations.PowerIsDoubledAboveBinZero := by
  intro d d' fs n i nan m hfs hfs' hn hn' hi hm p0 p1
  obtain ⟨q0, q1, hq0, hq1, hdouble, hpower⟩ :=
    binPower_nonNeg (finPos_f32OfNat hfs hfs') (finPos_f32OfNat hn (by omega)) hm
  have hp0 : p0 = q0 := (hpower d' 0).trans (if_pos rfl)
  have hp1 : p1 = q1 := (hpower d i).trans (if_neg hi.ne')
  rw [hp0, hp1]
  refine ⟨(hdouble nan).symm, hq0.notNaN, hq0.sign, hq1.notNaN, hq1.sign, fun hfin => ?_⟩
  rw [← hdouble nan] at hfin ⊢
  exact scaled_f32Mul_two hq0 hfin

/-! ### The finalisation of a bin (R171) -/

/-- A running sum stays one, and its special values stay as they are (R176). -/
theorem finalBin_keeps {cf corr2 : Word} (hcf : FinPos cf) (hcorr : FinPos corr2) (d i : Nat) :
    finalBin binary32 d cf corr2 i 0 = 0 ∧ finalBin binary32 d cf corr2 i 0x7F800000 = 0x7F800000 ∧
    (∀ p, isNaN p = true → isNaN (finalBin binary32 d cf corr2 i p) = true) ∧
    (∀ p, sumShaped p = true → sumShaped (finalBin binary32 d cf corr2 i p) = true) := by
  have hn0 := isNaN_drawnNaN d i 0
  have hn1 := isNaN_drawnNaN d i 1
  simp only [finalBin, binary32]
  refine ⟨?_, ?_, fun p hp => ?_, fun p hp => ?_⟩
  · rw [f32Div_zero_left _ hcf, f32Mul_zero_left _ hcorr]
  · rw [f32Div_posInf _ hcf, f32Mul_posInf _ hcorr]
  · rw [(primitives_of_isNaN _ (.inl hp)).2.1, (primitives_of_isNaN _ (.inl hn0)).1]
    exact hn1
  · exact sumShaped_f32Mul hn1 (sumShaped_f32Div hn0 hp hcf) hcorr

/-- A bin that holds `k` times a number finalises, over `k` segments, to the number times CORR2, whatever is drawn. -/
theorem finalBin_count {corr2 a p : Word} {k : Nat} (hlo : 1 ≤ k) (hhi : k < 2 ^ 24) (ha : isFinite a = true)
    (hsa : signBit a = false) (hp : isFinite p = true) (hsp : signBit p = false) (hval : scaled a = k * scaled p)
    (hcorr : FinPos corr2) (d i : Nat) :
    finalBin binary32 d (f32OfNat k) corr2 i a = rnd32 false (scaled p * scaled corr2) (2 ^ 149 * 2 ^ 149) := by
  simp only [finalBin, binary32]
  rw [f32Div_count hlo hhi ha hsa hp hsp hval, f32Mul_finPos _ hp hsp hcorr]

end Sys2Proof.Machine
end

section
/-! PROOFS. ACCUMULATE (41_accumulate.md rules R140 to R158; 45_backend_port.md rules R196 to R206): the requests, the
magnitudes as a function of the segment, and the power each bin gets. -/

namespace Sys2Proof.Machine

/-! ### Completion and requests -/

/-- A ready ACCUMULATE performs its five stages (R140). -/
theorem exec_accumulate_ready {s : State} (h : SegmentReady s) :
    exec .accumulate s = .next (answerOk (accumulateSegment s)) := by
  obtain ⟨hn, hfull, hmax⟩ := h
  have hcases := exec_accumulate_cases s
  tauto

theorem push_beRequests (data : Word) (s : State) : (push data s).beRequests = s.beRequests := by
  rcases push_cases data s with ⟨-, h⟩ | ⟨-, h⟩ <;> rw [h] <;> rfl

/-- No command but an ACCUMULATE that completes issues a request (R197). -/
theorem exec_beRequests {i : Instr} {s t : State} (h : exec i s = .next t) :
    t.beRequests = s.beRequests ∨ (i = .accumulate ∧ t.answer = some .ok) := by
  rcases exec_cases h with
    ⟨c, w, rfl⟩ | ⟨c, -, -, -, rfl⟩ | ⟨hi, -, rfl⟩ | ⟨-, -, rfl⟩ | ⟨-, -, rfl⟩ | ⟨-, rfl⟩
  · exact .inl rfl
  · exact .inl rfl
  · exact .inr ⟨hi, rfl⟩
  all_goals exact .inl rfl

/-- A step that asserts no reset shows a request only if it was the write of an ACCUMULATE that completed (R197). -/
theorem step_beRequests {s t : State} {u : Txn} {rest : List Txn} (hp : s.pending = u :: rest) (hr : isReset u = false)
    (h : step s = .next t) : t.beRequests = [] ∨ (u = .write 0x08 (encode .accumulate) ∧ t.answer = some .ok) := by
  rcases step_cases hp hr h with
    ⟨rfl, -⟩ | ⟨a, -, rfl⟩ | ⟨-, d, -, rfl⟩ | ⟨-, d, -, rfl⟩ | ⟨-, w, -, -, rfl⟩ | ⟨-, i, rfl, he⟩
  · exact .inl rfl
  · exact .inl rfl
  · exact .inl rfl
  · exact .inl (push_beRequests d (accept rest s))
  · exact .inl rfl
  · rcases exec_beRequests he with hnone | ⟨rfl, hok⟩
    · exact .inl hnone
    · exact .inr ⟨rfl, hok⟩

/-- Settles O15: the requests of stage C, and the transactions one by one; a reset clears what was shown. -/
theorem backendRequestsInSequence : Obligations.BackendRequestsInSequence := by
  refine ⟨fun s hready => ⟨_, exec_accumulate_ready hready, accumulateSegment_beRequests s⟩, fun s t u rest hp h hne => ?_⟩
  cases hr : isReset u with
  | true =>
    rw [step_cons hp] at h
    cases u with
    | reset | cutWrite =>
      cases h
      exact absurd rfl hne
    | read | write | oddWidth => cases hr
  | false => exact (step_beRequests hp hr h).resolve_left hne

/-- The backend function of `n` entries gives `n` magnitudes (R198). -/
theorem backendFunction_length (b : Backend) (n : Nat) (x : List Word) : (backendFunction b n x).length = n := by
  simp [backendFunction, runBackend, backendSequence, serve, tabulate]

/-- Settles O16: the draw number reaches IM alone, in the MAG request. -/
theorem backendIsAFunctionOfItsBuffers : Obligations.BackendIsAFunctionOfItsBuffers :=
  ⟨runBackend_re, fun b _ _ _ => by cases b <;> rfl, backendFunction_length⟩

/-! ### The segment and its magnitudes -/

/-- The logical entries exist in every register file. -/
theorem Fits.segLen_le {s : State} (h : Fits s) :
    segLen s ≤ s.bin.length ∧ segLen s ≤ s.re.length ∧ segLen s ≤ s.im.length ∧ segLen s ≤ s.samp.length := by
  obtain ⟨⟨hbin, hre, him, hsamp⟩, hn⟩ := h
  rw [hbin, hre, him, hsamp]
  exact ⟨hn, hn, hn, hn⟩

/-- The segment is the first NSAMP samples (R13). -/
theorem samp_take_eq {s : State} {n : Nat} (hn : n ≤ s.samp.length) : s.samp.take n = (List.range n).map (readSamp s) := by
  apply List.ext_getElem
  · simpa using hn
  · intro k h1 h2
    have hk : k < s.samp.length := by simp at h1; omega
    simp [readSamp, hk]

/-- The backend's input depends on the parameters, NSAMP and the segment alone (R198). -/
theorem backendInput_congr {s s' : State} (hn : segLen s ≤ s.samp.length) (hn' : segLen s ≤ s'.samp.length)
    (hcfg : s'.cfg = s.cfg) (hnsamp : s'.nsamp = s.nsamp) (hsamp : ∀ k, k < segLen s → readSamp s' k = readSamp s k) :
    backendInput s' = backendInput s := by
  have hlen : segLen s' = segLen s := congrArg BitVec.toNat hnsamp
  have hnum : s'.num = s.num := congrArg (fun p : Params => numerics p.arithmetic) hcfg
  have hseg : s'.samp.take (segLen s) = s.samp.take (segLen s) := by
    rw [samp_take_eq hn, samp_take_eq hn']
    exact List.map_congr_left fun k hk => hsamp k (List.mem_range.1 hk)
  have hmean : segmentMean (segLen s) s'.samp = segmentMean (segLen s) s.samp := by
    rw [segmentMean, segmentMean, segmentSum, segmentSum, hseg]
  unfold backendInput
  rw [hlen]
  refine List.map_congr_left fun k hk => ?_
  rw [centred, centred, hlen, hnum, hmean, hsamp k (List.mem_range.1 hk)]

/-- RE after an ACCUMULATE: the magnitudes of the segment. -/
theorem readRe_accumulateSegment_of_fits {s : State} (hf : Fits s) {i : Nat} (hi : i < segLen s) :
    readRe (accumulateSegment s) i = (backendFunction s.cfg.backend (segLen s) (backendInput s)).getD i 0 := by
  obtain ⟨-, hre, him, -⟩ := hf.segLen_le
  exact readRe_accumulateSegment hre him hi

/-- Two segments of equal samples have equal magnitudes (R198). -/
theorem readRe_accumulateSegment_congr {s s' : State} (hf : Fits s) (hf' : Fits s') (hcfg : s'.cfg = s.cfg)
    (hnsamp : s'.nsamp = s.nsamp) (hsamp : ∀ k, k < segLen s → readSamp s' k = readSamp s k) {i : Nat}
    (hi : i < segLen s) : readRe (accumulateSegment s') i = readRe (accumulateSegment s) i := by
  have hlen : segLen s' = segLen s := congrArg BitVec.toNat hnsamp
  have hinput := backendInput_congr hf.segLen_le.2.2.2 (hlen ▸ hf'.segLen_le.2.2.2) hcfg hnsamp hsamp
  rw [readRe_accumulateSegment_of_fits hf hi, readRe_accumulateSegment_of_fits hf' (hlen ▸ hi), hinput, hlen, hcfg]

/-- Settles O17: RE holds the magnitudes, which are a function of the parameters, NSAMP and the samples. -/
theorem magnitudesDependOnSegmentOnly : Obligations.MagnitudesDependOnSegmentOnly :=
  fun _ _ hready hf hready' hf' hcfg hnsamp hsamp =>
    ⟨_, _, exec_accumulate_ready hready, exec_accumulate_ready hready', fun _ hi =>
      readRe_accumulateSegment_congr hf hf' hcfg hnsamp hsamp hi⟩

/-- The backend's input in the words of R146 and R148. -/
theorem backendInput_eq (s : State) :
    backendInput s = (List.range s.nsamp.toNat).map fun k =>
      (numerics s.cfg.arithmetic).cvtI ((readSamp s k).toInt -
        Int.tdiv ((s.samp.take s.nsamp.toNat).map BitVec.toInt).sum s.nsamp.toNat) := by
  have hmean : segmentMean (segLen s) s.samp = Int.tdiv ((s.samp.take s.nsamp.toNat).map BitVec.toInt).sum s.nsamp.toNat :=
    segmentMean_eq_tdiv _ _
  rw [← hmean]
  rfl

/-! ### The bins -/

/-- The register files keep their sizes, so the arrays fit after an ACCUMULATE as before. -/
theorem arraysFit_accumulateSegment {s : State} (h : ArraysFit s) : ArraysFit (accumulateSegment s) := by
  obtain ⟨hbin, hre, him⟩ := accumulateSegment_lengths s
  rwa [ArraysFit, hbin, hre, him, accumulateSegment_samp, accumulateSegment_maxn]

/-- What ACCUMULATE leaves alone (R140), as one update. -/
theorem accumulateSegment_frame (s : State) :
    accumulateSegment s = { s with
      bin := (accumulateSegment s).bin, re := (accumulateSegment s).re, im := (accumulateSegment s).im
      segcnt := s.segcnt + 1, sptr := 0, beRequests := backendRequests s.nsamp, draws := s.draws + 1 } := by
  apply State.ext <;> simp

/-- Settles O14: the frame, the sizes, the entries above NSAMP, and for each logical bin the operations with the NaN patterns
the command draws. -/
theorem accumulateAddsPowerToEveryBin : Obligations.AccumulateAddsPowerToEveryBin := by
  refine ⟨rfl, fun s hready hf => ⟨_, exec_accumulate_ready hready, ?_, ?_, arraysFit_accumulateSegment hf.1,
    fun i hi => ⟨readBin_accumulateSegment_above hi, readRe_accumulateSegment_above hi⟩, ?_⟩⟩
  · exact congrArg answerOk (accumulateSegment_frame s)
  · simpa using toNat_add_one_of_ne_max hready.2.2
  · dsimp only
    rw [← backendInput_eq]
    refine fun i hi => ⟨readRe_accumulateSegment_of_fits hf hi, drawnNaN s.draws i 0, drawnNaN s.draws i 1,
      drawnNaN s.draws i 2, drawnNaN s.draws i 3, drawnNaN s.draws i 4, isNaN_drawnNaN .., isNaN_drawnNaN ..,
      isNaN_drawnNaN .., isNaN_drawnNaN .., isNaN_drawnNaN .., ?_⟩
    exact readBin_accumulateSegment hi (lt_of_lt_of_le hi hf.segLen_le.1)

/-- Settles O18: the bins reach ACCUMULATE through the lazy clear alone, which forgets the logical ones. -/
theorem lazyClearForgetsOldBins : Obligations.LazyClearForgetsOldBins := by
  intro s b hready hf hcnt hb
  have hle : segLen s ≤ b.length := by rw [hb]; exact hf.2
  refine ⟨_, _, exec_accumulate_ready hready, exec_accumulate_ready (s := { s with bin := b }) hready, rfl,
    fun i hi => ?_, fun i hi => ?_⟩
  · have hbin := readBin_accumulateSegment (s := s) hi (lt_of_lt_of_le hi hf.segLen_le.1)
    have hbin' := readBin_accumulateSegment (s := { s with bin := b }) hi (lt_of_lt_of_le hi hle)
    rw [if_pos hcnt] at hbin hbin'
    exact hbin'.trans hbin.symm
  · exact readBin_accumulateSegment_above (s := { s with bin := b }) hi

/-! ### In binary32 -/

theorem finPos_freq {s : State} (h : s.fs ≠ 0) : FinPos (f32OfNat s.fs.toNat) :=
  finPos_f32OfNat (one_le_toNat h) s.fs.isLt

theorem finPos_segLen {s : State} (h : s.nsamp ≠ 0) : FinPos (f32OfNat (segLen s)) :=
  finPos_f32OfNat (one_le_toNat h) (lt_trans s.nsamp.isLt (by decide))

/-- One logical bin after an ACCUMULATE, in binary32 (R152). -/
theorem readBin_accumulateSegment_binary32 {s : State} (hb : UsesBinary32 s) (hf : Fits s) {i : Nat} (hi : i < segLen s) :
    readBin (accumulateSegment s) i = f32Add (drawnNaN s.draws i 4) (if s.segcnt = 0 then 0 else readBin s i)
      (binPower binary32 s.draws (f32OfNat s.fs.toNat) (f32OfNat (segLen s)) i (readRe (accumulateSegment s) i)) := by
  rw [readBin_accumulateSegment hi (lt_of_lt_of_le hi hf.segLen_le.1), num_of_binary32 hb, freqDivisor_of_binary32 hb,
    countDivisor_of_binary32 hb]
  rfl

/-- Samples that are all equal have their own value as mean (R146). -/
theorem segmentMean_constant {n : Nat} {samp : List Sample} {c : Sample} (hn : 1 ≤ n)
    (hseg : samp.take n = List.replicate n c) : segmentMean n samp = intOf c := by
  have hsum : segmentSum n samp = n * intOf c := by simp [segmentSum, hseg]
  rw [segmentMean_eq_tdiv, hsum]
  exact Int.mul_tdiv_cancel_left _ (by omega)

/-- A constant segment gives the backend zeros (R158). -/
theorem backendInput_constant {s : State} {c : Sample} (hb : UsesBinary32 s) (hn : s.nsamp ≠ 0) (hf : Fits s)
    (hc : ∀ k, k < segLen s → readSamp s k = c) : backendInput s = List.replicate (segLen s) posZero := by
  have hseg : s.samp.take (segLen s) = List.replicate (segLen s) c := by
    rw [samp_take_eq hf.segLen_le.2.2.2]
    exact List.eq_replicate_iff.2 ⟨by simp, by simpa using hc⟩
  refine List.eq_replicate_iff.2 ⟨by simp [backendInput], fun w hw => ?_⟩
  obtain ⟨k, hk, rfl⟩ := List.mem_map.1 hw
  rw [centred, segmentMean_constant (n := segLen s) (one_le_toNat hn) hseg, hc k (List.mem_range.1 hk), sub_self,
    num_of_binary32 hb]
  exact rnd32_zero false one_pos

/-- Settles O22: the magnitudes are +0, so the power is +0, and adding it changes no sum but -0 or a NaN. -/
theorem constantSegmentAddsNothing : Obligations.ConstantSegmentAddsNothing := by
  intro s c hb hready hf hfs hzero hc
  refine ⟨_, exec_accumulate_ready hready, fun i hi => ?_⟩
  have hre : readRe (accumulateSegment s) i = 0 := by
    rw [readRe_accumulateSegment_of_fits hf hi, backendInput_constant hb hready.1 hf hc, hzero]
    exact List.getD_replicate _ hi
  have hbin := readBin_accumulateSegment_binary32 hb hf hi
  rw [hre, binPower_zero (finPos_freq hfs) (finPos_segLen hready.1)] at hbin
  refine ⟨hre, fun hcnt => ?_, fun hcnt hnan hne => ?_⟩
  · rw [if_pos hcnt] at hbin
    exact hbin
  · rw [if_neg hcnt, f32Add_zero_right _ hnan hne] at hbin
    exact hbin

/-- The first segment of a cycle leaves its power in the bin, whatever is drawn (R145, R152). -/
theorem readBin_firstSegment {s : State} (hb : UsesBinary32 s) (hf : Fits s) (hcnt : s.segcnt = 0) {i : Nat}
    (hi : i < segLen s) {p : Word} (hp : NonNeg p)
    (hpower : binPower binary32 s.draws (f32OfNat s.fs.toNat) (f32OfNat (segLen s)) i (readRe (accumulateSegment s) i) = p) :
    readBin (accumulateSegment s) i = p := by
  rw [readBin_accumulateSegment_binary32 hb hf hi, if_pos hcnt, hpower, f32Add_zero_left _ hp]

/-- Settles O23: mirrored bins have the same magnitude, hence the same doubled power, which is all they hold. -/
theorem upperHalfMirrorsLowerHalf : Obligations.UpperHalfMirrorsLowerHalf := by
  intro s hb hready hf hfs hcnt heven
  refine ⟨_, exec_accumulate_ready hready, fun i hlo hi hnan => ?_⟩
  have hmirror : s.nsamp.toNat - i < segLen s := by unfold segLen; omega
  have hre : readRe (accumulateSegment s) (s.nsamp.toNat - i) = readRe (accumulateSegment s) i := by
    rw [readRe_accumulateSegment_of_fits hf hmirror, readRe_accumulateSegment_of_fits hf hi]
    exact (heven _ _ i (by simp [backendInput, segLen]) hlo hi).symm
  obtain ⟨p0, p1, -, hp1, -, hpower⟩ := binPower_nonNeg (finPos_freq hfs) (finPos_segLen hready.1) hnan
  have hupper := readBin_firstSegment hb hf hcnt hmirror hp1 (by
    rw [hre]
    exact (hpower _ _).trans (if_neg (by omega)))
  have hlower := readBin_firstSegment hb hf hcnt hi hp1 ((hpower _ _).trans (if_neg (by omega)))
  exact hupper.trans hlower.symm

end Sys2Proof.Machine
end

section
/-! PROOFS. GETRESULT with segments counted (42_getresult.md rules R170 to R178): what each bin becomes, after CLEAR and
after two equal segments too. -/

namespace Sys2Proof.Machine

/-- GETRESULT with SEGCNT > 0 finalises (R170). -/
theorem exec_getResult_counting {s : State} (h : s.segcnt ≠ 0) :
    exec .getResult s = .next (answerOk (finalizeBins s)) := by
  rcases exec_getResult_cases s with ⟨hidle, -⟩ | ⟨-, he⟩
  · exact absurd hidle h
  · exact he

/-- Settles O24: the frame is that of `finalizeBins`; each logical bin is finalised with the NaN
patterns the command draws. -/
theorem getResultFinalisesEveryBin : Obligations.GetResultFinalisesEveryBin := by
  refine ⟨rfl, fun s hcnt hf => ⟨_, exec_getResult_counting hcnt, rfl, ?_, rfl,
    fun i hi => (readBin_answerOk _ i).trans (readBin_finalizeBins_above hi), fun i hi => ?_⟩⟩
  · simpa using hf.1.1
  · refine ⟨drawnNaN s.draws i 0, drawnNaN s.draws i 1, isNaN_drawnNaN .., isNaN_drawnNaN .., ?_⟩
    rw [readBin_answerOk, readBin_finalizeBins hi (lt_of_lt_of_le hi hf.segLen_le.1)]
    rfl

/-- One logical bin after a GETRESULT, in binary32 (R171). -/
theorem readBin_finalizeBins_binary32 {s : State} (hb : UsesBinary32 s) {i : Nat} (hi : i < s.nsamp.toNat)
    (hlen : i < s.bin.length) :
    readBin (finalizeBins s) i =
      finalBin binary32 s.draws (f32OfNat s.segcnt.toNat) s.cfg.corr2 i (readBin s i) := by
  rw [readBin_finalizeBins hi hlen, num_of_binary32 hb, segmentDivisor_of_binary32 hb]

theorem finPos_segcnt {s : State} (h : s.segcnt ≠ 0) : FinPos (f32OfNat s.segcnt.toNat) :=
  finPos_f32OfNat (one_le_toNat h) s.segcnt.isLt

/-- Settles O28: CLEAR keeps SEGCNT and leaves +0 in every logical bin, which finalisation keeps. -/
theorem getResultAfterClearGivesZeros : Obligations.GetResultAfterClearGivesZeros := by
  intro s hb hlegal hcnt hf
  let t := answerOk { s with bin := clearBins s.nsamp.toNat s.bin }
  have hcntt : t.segcnt ≠ 0 := hcnt
  refine ⟨t, _, exec_clear s, exec_getResult_counting hcntt, fun i hi => ?_, phase_eq_idle rfl⟩
  have hlen : i < s.bin.length := lt_of_lt_of_le hi hf.segLen_le.1
  have hzero : readBin t i = 0 := clearBins_below hi hlen
  have hfinal := readBin_finalizeBins_binary32 (s := t) hb hi (by simpa [t] using hlen)
  rw [hzero] at hfinal
  exact (readBin_answerOk _ i).trans
    (hfinal.trans (finalBin_keeps (finPos_segcnt hcntt) (finPos_corr2 (p := t.cfg) hlegal) _ _).1)

/-- Settles O29: bin by bin, finalisation divides by a finite positive count and multiplies by a finite positive CORR2. -/
theorem finalisationKeepsSpecialValues : Obligations.FinalisationKeepsSpecialValues := by
  intro s hb hlegal hcnt hf
  refine ⟨_, exec_getResult_counting hcnt, fun i hi => ?_⟩
  obtain ⟨hzero, hinf, hnan, hsum⟩ := finalBin_keeps (finPos_segcnt hcnt) (finPos_corr2 hlegal) s.draws i
  rw [readBin_answerOk, readBin_finalizeBins_binary32 hb hi (lt_of_lt_of_le hi hf.segLen_le.1)]
  exact ⟨fun h => by rw [h, hzero], fun h => by rw [h, hinf], hnan _, hsum _⟩

/-! ### Two equal segments (R177) -/

theorem fits_answerOk {s : State} (h : Fits s) : Fits (answerOk s) := h

/-- The state in which the first segment's samples have been delivered again: SPTR back at NSAMP, SAMP kept. -/
def redelivered (s : State) : State := { answerOk (accumulateSegment s) with sptr := s.sptr }

theorem segmentReady_redelivered {s : State} (h : SegmentReady s) (hcnt : s.segcnt = 0) :
    SegmentReady (redelivered s) := by
  obtain ⟨hn, hfull, -⟩ := h
  exact ⟨by simpa [redelivered] using hn, by simpa [redelivered] using hfull, by simp [redelivered, hcnt]⟩

theorem fits_accumulateSegment {s : State} (h : Fits s) : Fits (accumulateSegment s) := by
  obtain ⟨harrays, hn⟩ := h
  exact ⟨arraysFit_accumulateSegment harrays, by rwa [accumulateSegment_nsamp, accumulateSegment_maxn]⟩

theorem fits_setSptr {s : State} (h : Fits s) (k : BitVec 17) : Fits { s with sptr := k } := h

theorem fits_redelivered {s : State} (h : Fits s) : Fits (redelivered s) :=
  fits_setSptr (fits_answerOk (fits_accumulateSegment h)) s.sptr

/-- The second of two equal segments has the magnitudes of the first. -/
theorem readRe_redelivered {s : State} (hf : Fits s) {i : Nat} (hi : i < segLen s) :
    readRe (accumulateSegment (redelivered s)) i = readRe (accumulateSegment s) i :=
  readRe_accumulateSegment_congr hf (fits_redelivered hf) (accumulateSegment_cfg s) (accumulateSegment_nsamp s)
    (fun k _ => by simp [redelivered, readSamp]) hi

/-- After two equal segments a bin holds the sum of the power and itself. -/
theorem readBin_redelivered {s : State} (hb : UsesBinary32 s) (hf : Fits s) (hcnt : s.segcnt = 0) {i : Nat}
    (hi : i < segLen s) {p : Word} (hp : NonNeg p)
    (hpower : ∀ d, binPower binary32 d (f32OfNat s.fs.toNat) (f32OfNat (segLen s)) i (readRe (accumulateSegment s) i) = p) :
    readBin (accumulateSegment (redelivered s)) i = f32Add (drawnNaN (redelivered s).draws i 4) p p := by
  have hfs : (redelivered s).fs = s.fs := accumulateSegment_fs s
  have hlen : segLen (redelivered s) = segLen s := congrArg BitVec.toNat (accumulateSegment_nsamp s)
  have hbr : UsesBinary32 (redelivered s) := (congrArg Params.arithmetic (accumulateSegment_cfg s)).trans hb
  have hcntr : (redelivered s).segcnt ≠ 0 := by simp [redelivered, hcnt]
  have hfirst : readBin (redelivered s) i = p := readBin_firstSegment hb hf hcnt hi hp (hpower _)
  have hbin := readBin_accumulateSegment_binary32 hbr (fits_redelivered hf) (hlen.symm ▸ hi)
  rwa [if_neg hcntr, hfirst, hfs, hlen, readRe_redelivered hf hi, hpower] at hbin

/-- A finite sum of a non-negative number and itself has a finite summand. -/
theorem isFinite_of_f32Add_self {nan p : Word} (hp : NonNeg p) (hfin : isFinite (f32Add nan p p) = true) :
    isFinite p = true := by
  rcases hp.posInf_or_finite with rfl | h
  · have hinf : f32Add nan 0x7F800000 0x7F800000 = 0x7F800000 := rfl
    rw [hinf] at hfin
    cases hfin
  · exact h

/-- A bin that holds `k` times a finite number finalises, after `k` segments, to the number times CORR2. -/
theorem readBin_finalizeBins_count {s : State} (hb : UsesBinary32 s) (hlegal : s.cfg.Legal) (hf : Fits s) {i k : Nat}
    (hi : i < segLen s) (hcnt : s.segcnt.toNat = k) (hlo : 1 ≤ k) (hhi : k < 2 ^ 24) {a p : Word} (ha : readBin s i = a)
    (hafin : isFinite a = true) (hasign : signBit a = false) (hpfin : isFinite p = true) (hpsign : signBit p = false)
    (hval : scaled a = k * scaled p) :
    readBin (finalizeBins s) i = rnd32 false (scaled p * scaled s.cfg.corr2) (2 ^ 149 * 2 ^ 149) := by
  rw [readBin_finalizeBins_binary32 hb hi (lt_of_lt_of_le hi hf.segLen_le.1), hcnt, ha]
  exact finalBin_count hlo hhi hafin hasign hpfin hpsign hval (finPos_corr2 hlegal) _ _

/-- Settles O55: the bin holds the power after one segment and its double after two; over one and two segments both finalise
to the power times CORR2. -/
theorem twoEqualSegmentsGiveTheSingleResult : Obligations.TwoEqualSegmentsGiveTheSingleResult := by
  intro s hb hlegal hready hf hfs hcnt
  let t := answerOk (accumulateSegment s)
  let u := answerOk (accumulateSegment (redelivered s))
  have hcntt : t.segcnt = 1 := by simp [t, hcnt]
  have hcntu : u.segcnt = 2 := by simp [u, redelivered, hcnt]
  have hcfgt : t.cfg = s.cfg := accumulateSegment_cfg s
  have hcfgu : u.cfg = s.cfg := (accumulateSegment_cfg (redelivered s)).trans (accumulateSegment_cfg s)
  have hlent : segLen t = segLen s := congrArg BitVec.toNat (accumulateSegment_nsamp s)
  have hlenu : segLen u = segLen s := (congrArg BitVec.toNat (accumulateSegment_nsamp (redelivered s))).trans hlent
  refine ⟨t, u, _, _, exec_accumulate_ready hready, exec_accumulate_ready (segmentReady_redelivered hready hcnt),
    exec_getResult_counting (by simp [hcntt]), exec_getResult_counting (by simp [hcntu]), fun i hi hnan hfin => ?_⟩
  obtain ⟨p0, p1, hp0, hp1, -, hpower⟩ := binPower_nonNeg (finPos_freq hfs) (finPos_segLen hready.1) hnan
  obtain ⟨p, hp, hpower⟩ : ∃ p, NonNeg p ∧
      ∀ d, binPower binary32 d (f32OfNat s.fs.toNat) (f32OfNat (segLen s)) i (readRe (accumulateSegment s) i) = p :=
    ⟨if i = 0 then p0 else p1, by split <;> assumption, fun d => hpower d i⟩
  have hone : readBin t i = p := readBin_firstSegment hb hf hcnt hi hp (hpower _)
  have hboth : readBin u i = f32Add (drawnNaN (redelivered s).draws i 4) p p := readBin_redelivered hb hf hcnt hi hp hpower
  rw [hboth] at hfin
  have hpfin := isFinite_of_f32Add_self hp hfin
  have hsum := scaled_f32Add_self hpfin hp.sign hfin
  obtain ⟨r, hr, hadd⟩ := f32Add_nonNeg hp hp
  have hfinalt := readBin_finalizeBins_count (s := t) (k := 1) ((congrArg Params.arithmetic hcfgt).trans hb)
    (hcfgt.symm ▸ hlegal) (fits_answerOk (fits_accumulateSegment hf)) (hlent.symm ▸ hi) (by simp [hcntt]) le_rfl
    (by decide) hone hpfin hp.sign hpfin hp.sign (one_mul _).symm
  have hfinalu := readBin_finalizeBins_count (s := u) (k := 2) ((congrArg Params.arithmetic hcfgu).trans hb)
    (hcfgu.symm ▸ hlegal) (fits_answerOk (fits_accumulateSegment (fits_redelivered hf))) (hlenu.symm ▸ hi)
    (by simp [hcntu]) one_le_two (by decide) hboth hfin (hadd _ ▸ hr.sign) hpfin hp.sign hsum
  rw [readBin_answerOk, readBin_answerOk, hfinalt, hfinalu, hcfgt, hcfgu]

end Sys2Proof.Machine
end

section
/-! PROOFS. The invariant of rule R47 (10_state.md): it holds at reset, and every transaction keeps it. -/

namespace Sys2Proof.Machine

/-! ### Reset -/

/-- A reset of a block with legal parameters meets the invariant, whatever is drawn (R48, R245). -/
theorem inv_resetBlock {s : State} (hlegal : s.cfg.Legal) : Inv (resetBlock s) :=
  ⟨hlegal, arraysFit_resetBlock s, le_rfl, Nat.zero_le _, iff_of_true rfl rfl, fun h => absurd rfl h,
    fun _ h => absurd rfl h, Nat.zero_le _, fun _ => rfl⟩

/-- Settles O43: the arrays of the reset state have MAXN entries, and its scalars are 0. -/
theorem resetMeetsTheInvariant : Obligations.ResetMeetsTheInvariant :=
  ⟨by decide, by simp [ArraysFit, State.reset, State.afterReset, State.maxn], le_rfl, Nat.zero_le _, iff_of_true rfl rfl,
    fun h => absurd rfl h, fun _ h => absurd rfl h, Nat.zero_le _, fun _ => rfl⟩

/-! ### The updates -/

section
variable {s : State} (h : Inv s)
include h

theorem inv_answerOk : Inv (answerOk s) := h

theorem inv_raiseFault (c : FaultCause) (w : Word) : Inv (raiseFault c w s) := by
  obtain ⟨hlegal, harrays, hsptr, hn, hfs, hcnt, hsums, -, -⟩ := h
  exact ⟨hlegal, harrays, hsptr, hn, hfs, hcnt, hsums, (faultCode_range c).2, fun h0 => absurd h0 (faultCode_ne_zero c)⟩

/-- A push into a segment with room does not pass NSAMP (R135). -/
theorem inv_storeSample (data : Word) (hroom : s.sptr.toNat ≠ s.nsamp.toNat) : Inv (storeSample data s) := by
  obtain ⟨hlegal, ⟨hbin, hre, him, hsamp⟩, hsptr, hrest⟩ := h
  refine ⟨hlegal, ⟨hbin, hre, him, List.length_set.trans hsamp⟩, ?_, hrest⟩
  have hlt := s.nsamp.isLt
  have hsucc : (s.sptr + 1).toNat = s.sptr.toNat + 1 := by
    rw [BitVec.toNat_add, show (1 : BitVec 17).toNat = 1 from rfl, Nat.mod_eq_of_lt (by omega)]
  rw [storeSample_sptr, storeSample_nsamp, hsucc]
  omega

/-- CONFIGURE with good operands: NSAMP and FS become nonzero together, and no segment is counted (R121). -/
theorem inv_applyConfig {c : BitVec 16} (hc : c ≠ 0 ∧ c.toNat ≤ s.maxn) (hfs : s.argFs ≠ 0) : Inv (applyConfig c s) := by
  obtain ⟨hlegal, harrays, -, -, -, -, -, hcode, hinfo⟩ := h
  exact ⟨hlegal, harrays, Nat.zero_le _, hc.2, iff_of_false hfs hc.1, fun h0 => absurd rfl h0, fun _ h0 => absurd rfl h0,
    hcode, hinfo⟩

/-- CLEAR leaves +0 in every logical bin (R185). -/
theorem inv_clearBins : Inv { s with bin := clearBins s.nsamp.toNat s.bin } := by
  obtain ⟨hlegal, ⟨hbin, hfiles⟩, hsptr, hn, hfs, hcnt, -, hrest⟩ := h
  refine ⟨hlegal, ⟨(clearBins_length _ _).trans hbin, hfiles⟩, hsptr, hn, hfs, hcnt, fun _ _ i hi => ?_, hrest⟩
  have hzero : readBin { s with bin := clearBins s.nsamp.toNat s.bin } i = 0 :=
    clearBins_below hi (lt_of_lt_of_le hi (hn.trans hbin.ge))
  rw [hzero]
  exact nonNeg_zero.sumShaped

/-- GETRESULT leaves no segment counted (R170). -/
theorem inv_finalizeBins : Inv (finalizeBins s) := by
  obtain ⟨hlegal, ⟨hbin, hfiles⟩, hsptr, hn, hfs, -, -, hrest⟩ := h
  exact ⟨hlegal, ⟨(mapBelow_length _ _ _ _).trans hbin, hfiles⟩, hsptr, hn, hfs, fun h0 => absurd rfl h0,
    fun _ h0 => absurd rfl h0, hrest⟩

/-- A bin after an ACCUMULATE is a sum of +0 or a running sum, and a power (R155). -/
theorem sumShaped_accumulateSegment (hn : s.nsamp ≠ 0) (hb : UsesBinary32 s) {i : Nat} (hi : i < segLen s) :
    sumShaped (readBin (accumulateSegment s) i) = true := by
  obtain ⟨-, harrays, -, hle, hfs, -, hsums, -⟩ := h
  rw [readBin_accumulateSegment_binary32 hb ⟨harrays, hle⟩ hi]
  refine sumShaped_f32Add (isNaN_drawnNaN ..) ?_
    (sumShaped_binPower (finPos_freq fun h0 => hn (hfs.1 h0)) (finPos_segLen hn) ..)
  split
  · exact nonNeg_zero.sumShaped
  · next hcnt => exact hsums hb hcnt i hi

/-- ACCUMULATE consumes the segment and counts it; its bins are running sums (R152, R154). -/
theorem inv_accumulateSegment (hn : s.nsamp ≠ 0) : Inv (accumulateSegment s) := by
  have hsums := sumShaped_accumulateSegment h hn
  obtain ⟨hlegal, harrays, -, hle, hfs, -, -, hcode, hinfo⟩ := h
  refine ⟨?_, arraysFit_accumulateSegment harrays, ?_, ?_, ?_, ?_, ?_, ?_, ?_⟩
  · rwa [accumulateSegment_cfg]
  · simp
  · rwa [accumulateSegment_nsamp, accumulateSegment_maxn]
  · rwa [accumulateSegment_fs, accumulateSegment_nsamp]
  · exact fun _ => by rwa [accumulateSegment_nsamp]
  · intro hb _ i hi
    rw [accumulateSegment_nsamp] at hi
    exact hsums (by rwa [UsesBinary32, accumulateSegment_cfg] at hb) hi
  · rwa [accumulateSegment_fcode]
  · rwa [accumulateSegment_fcode, accumulateSegment_finfo]

/-! ### The transactions -/

theorem inv_push (data : Word) : Inv (push data s) := by
  rcases push_cases data s with ⟨-, he⟩ | ⟨hroom, he⟩ <;> rw [he]
  · exact inv_raiseFault h ..
  · exact inv_answerOk (inv_storeSample h data hroom)

theorem inv_exec {i : Instr} {t : State} (he : exec i s = .next t) : Inv t := by
  rcases exec_cases he with
    ⟨c, w, rfl⟩ | ⟨c, -, hc, hfs, rfl⟩ | ⟨-, ⟨hn, -, -⟩, rfl⟩ | ⟨-, -, rfl⟩ | ⟨-, -, rfl⟩ | ⟨-, rfl⟩
  · exact inv_raiseFault h c w
  · exact inv_answerOk (inv_applyConfig h hc hfs)
  · exact inv_answerOk (inv_accumulateSegment h hn)
  · exact inv_answerOk h
  · exact inv_answerOk (inv_finalizeBins h)
  · exact inv_answerOk (inv_clearBins h)

end

/-- Settles O44: a bus error, a read, SETFS, and the acceptance itself touch nothing the invariant speaks of; a reset
establishes it; PUSH and the commands keep it. -/
theorem everyStepKeepsTheInvariant : Obligations.EveryStepKeepsTheInvariant := by
  intro s t h hstep
  cases hp : s.pending with
  | nil => cases (idlePortHoldsState s hp).symm.trans hstep; exact h
  | cons u rest =>
    have h0 : Inv (accept rest s) := h
    cases hr : isReset u with
    | true =>
      rw [step_cons hp] at hstep
      cases u with
      | reset => cases hstep; exact inv_resetBlock h0.1
      | cutWrite => cases hstep; exact inv_resetBlock h0.1
      | read | write | oddWidth => cases hr
    | false =>
      rcases step_cases hp hr hstep with
        ⟨rfl, -⟩ | ⟨a, -, rfl⟩ | ⟨-, d, -, rfl⟩ | ⟨-, d, -, rfl⟩ | ⟨-, w, -, -, rfl⟩ | ⟨-, i, -, he⟩
      · exact h0
      · exact h0
      · exact h0
      · exact inv_push h0 d
      · exact inv_raiseFault h0 ..
      · exact inv_exec h0 he

end Sys2Proof.Machine
end

section
/-! PROOFS. The reference backend (45_backend_port.md rules R205, R206): one rounding of a real magnitude, and the transform
of zeros, of a real signal and of a scaled one. -/

namespace Sys2Proof.Machine

/-! ### Rounding a real number -/

/-- The spacing `roundReal` takes, as a power of two in units of 2^-149. -/
noncomputable def realQuantum (y : ℝ) : Nat := Nat.log2 ⌊y * 2 ^ 149⌋₊ - 23

/-- The integer significand `roundReal` takes. -/
noncomputable def realSignificand (y : ℝ) : Nat := nearestEvenReal (y * 2 ^ 149 / 2 ^ realQuantum y)

theorem roundReal_eq (y : ℝ) : roundReal y = pack false (min (realQuantum y * 2 ^ 23 + realSignificand y) infMag) := rfl

theorem nearestEvenReal_bounds (y : ℝ) : ⌊y⌋₊ ≤ nearestEvenReal y ∧ nearestEvenReal y ≤ ⌊y⌋₊ + 1 := by
  unfold nearestEvenReal
  split <;> omega

theorem nearestEvenReal_zero : nearestEvenReal 0 = 0 := by simp [nearestEvenReal]

/-- A rounded magnitude is +0, positive or +infinity. -/
theorem nonNeg_roundReal (y : ℝ) : NonNeg (roundReal y) := nonNeg_pack (Nat.min_le_right _ _)

theorem roundReal_zero : roundReal 0 = posZero := by
  have hq : realQuantum 0 = 0 := by simp [realQuantum]
  have hs : realSignificand 0 = 0 := by simp [realSignificand, nearestEvenReal_zero]
  rw [roundReal_eq, hq, hs]
  rfl

/-- In units of its spacing a number lies below 2^24, and from 2^23 on unless the spacing is the least. -/
theorem realSignificand_bounds {y : ℝ} (hy : 0 ≤ y) :
    realSignificand y ≤ 2 ^ 24 ∧ (realQuantum y = 0 ∨ 2 ^ 23 ≤ realSignificand y) := by
  have hY : 0 ≤ y * 2 ^ 149 := by positivity
  have hpow : (0 : ℝ) < 2 ^ realQuantum y := by positivity
  obtain ⟨hfloor, hceil⟩ := nearestEvenReal_bounds (y * 2 ^ 149 / 2 ^ realQuantum y)
  constructor
  · have hlog : ⌊y * 2 ^ 149⌋₊ < 2 ^ (24 + realQuantum y) :=
      lt_of_lt_of_le Nat.lt_log2_self (Nat.pow_le_pow_right (by decide) (by unfold realQuantum; omega))
    have hup : y * 2 ^ 149 / 2 ^ realQuantum y < (2 ^ 24 : Nat) := by
      rw [div_lt_iff₀ hpow]
      have := (Nat.floor_lt hY).1 hlog
      rw [pow_add] at this
      exact_mod_cast this
    have hlt := (Nat.floor_lt (by positivity)).2 hup
    exact hceil.trans hlt
  · by_cases hq : realQuantum y = 0
    · exact .inl hq
    · have hlog : 23 + realQuantum y = Nat.log2 ⌊y * 2 ^ 149⌋₊ := by unfold realQuantum at hq ⊢; omega
      have hne : ⌊y * 2 ^ 149⌋₊ ≠ 0 := fun h0 => hq (by simp [realQuantum, h0])
      have hlow : ((2 ^ 23 : Nat) : ℝ) ≤ y * 2 ^ 149 / 2 ^ realQuantum y := by
        rw [le_div_iff₀ hpow]
        have := (Nat.le_floor_iff hY).1 (hlog ▸ Nat.log2_self_le hne)
        rw [pow_add] at this
        exact_mod_cast this
      exact .inr ((Nat.le_floor hlow).trans hfloor)

/-- A finite rounded magnitude is its significand times its spacing. -/
theorem scaled_roundReal {y : ℝ} (hy : 0 ≤ y) (hfin : isFinite (roundReal y) = true) :
    scaled (roundReal y) = realSignificand y * 2 ^ realQuantum y := by
  obtain ⟨hle, hge⟩ := realSignificand_bounds hy
  rw [roundReal_eq] at hfin ⊢
  have hlt := (isFinite_pack (lt_of_le_of_lt (Nat.min_le_right _ _) (by decide))).1 hfin
  have heq : min (realQuantum y * 2 ^ 23 + realSignificand y) infMag = realQuantum y * 2 ^ 23 + realSignificand y := by
    omega
  rw [heq] at hlt ⊢
  exact scaled_pack_le hle hge hlt

/-- A number that rounds above the least normal number has at least 24 bits in units of 2^-149. -/
theorem le_floor_of_scaled_roundReal {y : ℝ} (hy : 0 ≤ y) (hfin : isFinite (roundReal y) = true)
    (hnormal : 2 ^ 23 < scaled (roundReal y)) : 2 ^ 23 ≤ ⌊y * 2 ^ 149⌋₊ := by
  by_cases hq : realQuantum y = 0
  · have hs : realSignificand y = nearestEvenReal (y * 2 ^ 149) := by simp [realSignificand, hq]
    have hceil := (nearestEvenReal_bounds (y * 2 ^ 149)).2
    rw [scaled_roundReal hy hfin, hq, hs] at hnormal
    omega
  · have hlog : 23 ≤ Nat.log2 ⌊y * 2 ^ 149⌋₊ := by unfold realQuantum at hq; omega
    have hne : ⌊y * 2 ^ 149⌋₊ ≠ 0 := fun h0 => hq (by simp [realQuantum, h0])
    exact (Nat.le_log2 hne).1 hlog

/-- Scaling by a power of two moves the leading bit. -/
theorem log2_floor_mul_two_pow {Y : ℝ} (hne : ⌊Y⌋₊ ≠ 0) (e : Nat) : Nat.log2 ⌊Y * 2 ^ e⌋₊ = Nat.log2 ⌊Y⌋₊ + e := by
  have hY : 0 ≤ Y := (Nat.floor_pos.1 (Nat.pos_of_ne_zero hne)).trans' zero_le_one
  have hpow : (0 : ℝ) < 2 ^ e := by positivity
  have hlow : 2 ^ (Nat.log2 ⌊Y⌋₊ + e) ≤ ⌊Y * 2 ^ e⌋₊ := by
    refine Nat.le_floor ?_
    have := (Nat.le_floor_iff hY).1 (Nat.log2_self_le hne)
    push_cast at this ⊢
    rw [pow_add]
    exact mul_le_mul_of_nonneg_right this hpow.le
  have hup : ⌊Y * 2 ^ e⌋₊ < 2 ^ (Nat.log2 ⌊Y⌋₊ + e + 1) := by
    rw [Nat.floor_lt (by positivity)]
    have := (Nat.floor_lt hY).1 (Nat.lt_log2_self (n := ⌊Y⌋₊))
    push_cast at this ⊢
    rw [add_right_comm, pow_add]
    exact mul_lt_mul_of_pos_right this hpow
  exact (Nat.log2_eq_iff (Nat.ne_of_gt (lt_of_lt_of_le (Nat.two_pow_pos _) hlow))).2 ⟨hlow, hup⟩

/-- Above the least normal number, scaling by a power of two scales the rounded number, unless it overflows. -/
theorem scaled_roundReal_mul_two_pow {y : ℝ} (hy : 0 ≤ y) (e : Nat) (hfin : isFinite (roundReal y) = true)
    (hfin' : isFinite (roundReal (y * 2 ^ e)) = true) (hnormal : 2 ^ 23 < scaled (roundReal y)) :
    scaled (roundReal (y * 2 ^ e)) = scaled (roundReal y) * 2 ^ e := by
  have hfloor := le_floor_of_scaled_roundReal hy hfin hnormal
  have hne : ⌊y * 2 ^ 149⌋₊ ≠ 0 := by omega
  have hlog : 23 ≤ Nat.log2 ⌊y * 2 ^ 149⌋₊ := (Nat.le_log2 hne).2 hfloor
  have hq : realQuantum (y * 2 ^ e) = realQuantum y + e := by
    rw [realQuantum, mul_right_comm, log2_floor_mul_two_pow hne, realQuantum]
    omega
  have hs : realSignificand (y * 2 ^ e) = realSignificand y := by
    rw [realSignificand, hq, realSignificand, mul_right_comm, pow_add, mul_div_mul_right _ _ (by positivity)]
  rw [scaled_roundReal hy hfin, scaled_roundReal (by positivity) hfin', hq, hs, pow_add, mul_assoc]

theorem scaledInt_of_nonNeg {p : Word} (h : NonNeg p) : scaledInt p = scaled p := by
  rw [scaledInt, h.sign]
  rfl

/-! ### The transform -/

theorem refBackend_getD {n i : Nat} (x : List Word) (hi : i < n) :
    (refBackend n x).getD i 0 = roundReal ‖refTransform n x i‖ := by
  simp [refBackend, List.getD, hi]

theorem valueOf_zero : valueOf 0 = 0 := by
  rw [valueOf, show scaledInt 0 = 0 by decide, Int.cast_zero, zero_div]

theorem refTransform_zeros (n i : Nat) : refTransform n (List.replicate n posZero) i = 0 := by
  refine Finset.sum_eq_zero fun k hk => ?_
  rw [List.getD_replicate _ (Finset.mem_range.1 hk), show posZero = 0 from rfl, valueOf_zero]
  simp

/-- The factors of entry `n - i` are the conjugates of those of entry `i`. -/
theorem exp_mirror {n i : Nat} (hi : i < n) (k : Nat) :
    Complex.exp (-2 * Real.pi * Complex.I * (n - i : Nat) * k / n) =
      (starRingEnd ℂ) (Complex.exp (-2 * Real.pi * Complex.I * i * k / n)) := by
  have hn : (n : ℂ) ≠ 0 := Nat.cast_ne_zero.2 (by omega)
  rw [← Complex.exp_conj, Complex.exp_eq_exp_iff_exists_int]
  refine ⟨-k, ?_⟩
  simp only [map_div₀, map_mul, map_neg, Complex.conj_I, Complex.conj_ofReal, map_natCast, map_ofNat,
    Nat.cast_sub hi.le]
  push_cast
  field_simp
  ring

/-- The transform of a real signal is symmetric (R206, BE-even). -/
theorem refTransform_mirror {n i : Nat} (x : List Word) (hi : i < n) :
    refTransform n x (n - i) = (starRingEnd ℂ) (refTransform n x i) := by
  unfold refTransform
  rw [map_sum]
  refine Finset.sum_congr rfl fun k _ => ?_
  rw [map_mul, Complex.conj_ofReal, exp_mirror hi]

/-- The transform is linear: a signal scaled by 2^e has the transform scaled by 2^e. -/
theorem refTransform_scale {n e : Nat} {x y : List Word}
    (h : ∀ k < n, scaledInt (y.getD k 0) = scaledInt (x.getD k 0) * 2 ^ e) (i : Nat) :
    refTransform n y i = refTransform n x i * 2 ^ e := by
  unfold refTransform
  rw [Finset.sum_mul]
  refine Finset.sum_congr rfl fun k hk => ?_
  have hval : valueOf (y.getD k 0) = valueOf (x.getD k 0) * 2 ^ e := by
    rw [valueOf, valueOf, h k (Finset.mem_range.1 hk)]
    push_cast
    ring
  rw [hval]
  push_cast
  ring

/-- Settles O54: zeros transform to zero; a rounded magnitude is never negative or a NaN; mirrored entries are conjugates, of
equal magnitude; and scaling passes through the linear transform, the norm and the rounding. -/
theorem referenceBackendProperties : Obligations.ReferenceBackendProperties := by
  refine ⟨fun n => ?_, fun n x _ _ v hv => ?_, fun n x i _ hlo hi => ?_, fun n x y e _ _ h i hi hfin hfin' hnormal => ?_⟩
  · refine List.eq_replicate_iff.2 ⟨by simp [refBackend], fun w hw => ?_⟩
    obtain ⟨i, -, rfl⟩ := List.mem_map.1 hw
    rw [refTransform_zeros, norm_zero, roundReal_zero]
  · obtain ⟨i, -, rfl⟩ := List.mem_map.1 hv
    exact ⟨(nonNeg_roundReal _).sign, (nonNeg_roundReal _).notNaN⟩
  · rw [refBackend_getD x hi, refBackend_getD x (show n - i < n by omega), refTransform_mirror x hi, Complex.norm_conj]
  · have hscale : ‖refTransform n y i‖ = ‖refTransform n x i‖ * 2 ^ e := by
      rw [refTransform_scale (fun k hk => (h k hk).2.2) i]
      simp
    rw [refBackend_getD x hi] at hfin hnormal ⊢
    rw [refBackend_getD y hi, hscale] at hfin' ⊢
    rw [scaledInt_of_nonNeg (nonNeg_roundReal _), scaledInt_of_nonNeg (nonNeg_roundReal _),
      scaled_roundReal_mul_two_pow (norm_nonneg _) e hfin hfin' hnormal]
    push_cast
    rfl

end Sys2Proof.Machine
end
